-- ==== Sys2Proof/Word.lean ====
section
/-! DEFINITION. The words of the ACS Frame Engine: every width that R4 and R5 fix, as a bit vector.
A byte string of `n` bytes is held in `8n` bits with byte 0 most significant (R5). -/

namespace Sys2Proof

/-- A byte (R5). -/
abbrev Byte := BitVec 8

/-- A frame: 32 bytes, both frame kinds (R4, R70). -/
abbrev Frame := BitVec 256

/-- A payload: exactly 30 bytes (R4). -/
abbrev Payload := BitVec 240

/-- A 128-bit key (R4, R14). -/
abbrev Key := BitVec 128

/-- A 128-bit IV (R4, R15). -/
abbrev Iv := BitVec 128

/-- A 64-bit device address (R4, R12). -/
abbrev Addr := BitVec 64

/-- A 32-bit correlation id (R4). -/
abbrev CorrId := BitVec 32

/-- A 16-bit checksum (R4). -/
abbrev Cksum := BitVec 16

end Sys2Proof
end

