-- ==== Sys2Proof/Syntax.lean ====
section
/-! DEFINITION. What the block executes: the eight rows of spec/opcode_table.json, one constructor each.
The six commands have no operand field: their operands are registers (R75).  The two frame rows carry the
fields of R71 and R72, as the receive sequencer judges them (assumption log 11). -/

namespace Sys2Proof

/-- One constructor per row of the opcode table. -/
inductive Instr where
  /-- ENC_HDR, command word 0x01 (R76, R91). -/
  | encHdr
  /-- DEC_HDR, command word 0x02 (R76, R93). -/
  | decHdr
  /-- ENC_MSG, command word 0x03 (R76, R101). -/
  | encMsg
  /-- DEC_MSG, command word 0x04 (R76, R103). -/
  | decMsg
  /-- SEND, command word 0x05 (R76, R110). -/
  | send
  /-- RECV, command word 0x06 (R76, R120). -/
  | recv
  /-- HEADER_FRAME, format H (R71): the fields after the marker. -/
  | headerFrame (correlationId : CorrId) (messageType messageLength : Byte) (iv : Iv) (checksum16 : Cksum)
  /-- MESSAGE_FRAME, format M (R72): the two cipher blocks. -/
  | messageFrame (cipherBlock0 cipherBlock1 : BitVec 128)
  deriving DecidableEq, Repr

end Sys2Proof
end

