-- ==== Sys2Proof/WellFormed.lean ====
section
/-! DEFINITION. Where a word of the block stands, and which instruction may stand there.  A frame's shape is
told by where it stands, not by its bits (R73). -/

namespace Sys2Proof

/-- Where the bits come from. -/
inductive Space where
  /-- The command word, written to CMD (R75). -/
  | command
  /-- The first frame a RECV polls, tested as a header (R73, R123). -/
  | firstFrame
  /-- The next frame of the same RECV, taken as a message whatever its bytes (R73, R131). -/
  | nextFrame
  deriving DecidableEq, Repr

/-- The header marker: eight bytes of 0xFF (R71, R77). -/
def marker : BitVec 64 := 0xFFFFFFFFFFFFFFFF#64

/-- May this instruction stand in this space?  A header frame only where a header is tested for; a frame
without the marker is a message frame there too; where a message is awaited every frame is one (R73). -/
def Instr.wellFormed : Space → Instr → Bool
  | .command, .encHdr => true
  | .command, .decHdr => true
  | .command, .encMsg => true
  | .command, .decMsg => true
  | .command, .send => true
  | .command, .recv => true
  | .command, .headerFrame _ _ _ _ _ => false
  | .command, .messageFrame _ _ => false
  | .firstFrame, .headerFrame _ _ _ _ _ => true
  | .firstFrame, .messageFrame x _ => x.extractLsb' 64 64 != marker
  | .firstFrame, .encHdr => false
  | .firstFrame, .decHdr => false
  | .firstFrame, .encMsg => false
  | .firstFrame, .decMsg => false
  | .firstFrame, .send => false
  | .firstFrame, .recv => false
  | .nextFrame, .messageFrame _ _ => true
  | .nextFrame, .headerFrame _ _ _ _ _ => false
  | .nextFrame, .encHdr => false
  | .nextFrame, .decHdr => false
  | .nextFrame, .encMsg => false
  | .nextFrame, .decMsg => false
  | .nextFrame, .send => false
  | .nextFrame, .recv => false

end Sys2Proof
end

