-- ==== Sys2Proof/Decode.lean ====
section
/-! DEFINITION. Bytes, the layout of the two frames (R71, R72), the command word (R75, R76), the decoder,
total on any bytes and refusing by name, and the encoder from the same tables. -/

namespace Sys2Proof

/-! ### Byte strings and bit vectors (R5, R6): byte 0 is the most significant -/

/-- The `n` bytes of a value, most significant first. -/
def natToBytes : Nat → Nat → List Byte
  | 0, _ => []
  | n + 1, v => natToBytes n (v / 256) ++ [BitVec.ofNat 8 v]

/-- `UBE` (R6): the unsigned integer a byte string is, most significant byte first. -/
def ube (bs : List Byte) : Nat := bs.foldl (fun acc b => acc * 256 + b.toNat) 0

/-- The byte string held in a register of `8n` bits (R5, D27). -/
def toBytes (n : Nat) (v : BitVec (8 * n)) : List Byte := natToBytes n v.toNat

/-- `BE32` (R6). -/
def be32 (v : BitVec 32) : List Byte := toBytes 4 v

/-- `BE16` (R6). -/
def be16 (v : BitVec 16) : List Byte := toBytes 2 v

/-- Byte `i` of a frame: bits `8(32-i)-1 .. 8(31-i)` (R5). -/
def frameByte (f : Frame) (i : Nat) : Byte := f.extractLsb' (8 * (31 - i)) 8

/-! ### The header frame (R71) -/

/-- Bytes `[0..8)`, bits 255:192. -/
def frameMarker (f : Frame) : BitVec 64 := f.extractLsb' 192 64

/-- Bytes `[8..12)`, bits 191:160, big-endian (R74). -/
def frameCorr (f : Frame) : CorrId := f.extractLsb' 160 32

/-- Byte 12, bits 159:152. -/
def frameType (f : Frame) : Byte := f.extractLsb' 152 8

/-- Byte 13, bits 151:144. -/
def frameLen (f : Frame) : Byte := f.extractLsb' 144 8

/-- Bytes `[14..30)`, bits 143:16, verbatim. -/
def frameIv (f : Frame) : Iv := f.extractLsb' 16 128

/-- Bytes `[30..32)`, bits 15:0, of a frame or of a plaintext block. -/
def frameCksum (f : Frame) : Cksum := f.extractLsb' 0 16

/-- Bytes `[0..30)`, bits 255:16: what a checksum covers (R54, R71, R72). -/
def frameBody (f : Frame) : Payload := f.extractLsb' 16 240

/-- The first 30 bytes of a header, by concatenation (R74). -/
def headerBody (c : CorrId) (t l : Byte) (v : Iv) : Payload :=
  (marker ++ c ++ t ++ l ++ v : BitVec (64 + 32 + 8 + 8 + 128))

/-- Thirty bytes and their two checksum bytes. -/
def withCksum (body : Payload) (k : Cksum) : Frame := (body ++ k : BitVec (240 + 16))

/-- The bits of a header frame (R71). -/
def headerBits (c : CorrId) (t l : Byte) (v : Iv) (k : Cksum) : Frame := withCksum (headerBody c t l v) k

/-- The bits of a message frame (R72). -/
def messageBits (x y : BitVec 128) : Frame := (x ++ y : BitVec (128 + 128))

/-- The marker gate (R77): exact equality of all 64 bits. -/
def hasMarker (f : Frame) : Bool := frameMarker f == marker

/-! ### Decoding -/

/-- Why the decoder refuses. -/
inductive DecodeError where
  /-- Fewer bytes than the word has. -/
  | truncated
  /-- Opcode 0x00 or 0x07 to 0xFF: it selects no command (R78). -/
  | illegalOpcode (word : Byte)
  deriving DecidableEq, Repr

/-- The opcode map (R76); every other word selects no command (R78). -/
def decodeCommand (w : Byte) : Option Instr :=
  match w.toNat with
  | 1 => some .encHdr
  | 2 => some .decHdr
  | 3 => some .encMsg
  | 4 => some .decMsg
  | 5 => some .send
  | 6 => some .recv
  | _ => none

/-- A frame read as a header frame (R71, R74). -/
def asHeader (f : Frame) : Instr := .headerFrame (frameCorr f) (frameType f) (frameLen f) (frameIv f) (frameCksum f)

/-- A frame read as a message frame (R72). -/
def asMessage (f : Frame) : Instr := .messageFrame (f.extractLsb' 128 128) (f.extractLsb' 0 128)

/-- The first frame of a RECV: a header if the marker matches, else a message frame (R73). -/
def decodeFirstFrame (f : Frame) : Instr := if hasMarker f then asHeader f else asMessage f

/-- The next frame of a RECV: a message frame whatever its bytes (R73, R131). -/
def decodeNextFrame (f : Frame) : Instr := asMessage f

/-- The frame that 32 bytes are, byte 0 most significant (R5, R70). -/
def frameOfBytes (bs : List Byte) : Frame := BitVec.ofNat 256 (ube bs)

/-- How many bytes a word of a space has (R70, R75). -/
def Space.bytes : Space → Nat
  | .command => 1
  | .firstFrame => 32
  | .nextFrame => 32

/-- The decoder: the instruction the bytes begin with, and the bytes after it. -/
def decode (sp : Space) (bs : List Byte) : Except DecodeError (Instr × List Byte) :=
  if bs.length < sp.bytes then .error .truncated
  else
    let word := bs.take sp.bytes
    let rest := bs.drop sp.bytes
    match sp with
    | .command =>
      match decodeCommand (BitVec.ofNat 8 (ube word)) with
      | some i => .ok (i, rest)
      | none => .error (.illegalOpcode (BitVec.ofNat 8 (ube word)))
    | .firstFrame => .ok (decodeFirstFrame (frameOfBytes word), rest)
    | .nextFrame => .ok (decodeNextFrame (frameOfBytes word), rest)

/-! ### Encoding -/

/-- The words of an instruction, as the bytes the hardware takes, first byte first (R71, R72, R75, R76). -/
def encode : Instr → List Byte
  | .encHdr => [0x01]
  | .decHdr => [0x02]
  | .encMsg => [0x03]
  | .decMsg => [0x04]
  | .send => [0x05]
  | .recv => [0x06]
  | .headerFrame c t l v k => toBytes 32 (headerBits c t l v k)
  | .messageFrame x y => toBytes 32 (messageBits x y)

/-- The space whose table gives an opcode-table row of this many bits; a frame is read as a first frame. -/
def tableSpace (nbits : Nat) : Option Space :=
  if nbits = 8 then some .command else if nbits = 256 then some .firstFrame else none

/-- The instruction the decoder reads from the word `w` of `nbits` bits, numbered as the opcode table does:
a command word is one byte; in a frame bit 255 is bit 7 of byte 0 (the table's note, R5). -/
def decodeTableWord (nbits w : Nat) : Option Instr :=
  match tableSpace nbits with
  | none => none
  | some sp =>
    match decode sp (natToBytes sp.bytes w) with
    | .ok (i, _) => some i
    | .error _ => none

end Sys2Proof
end

