-- ==== Sys2Proof/Config.lean ====
section
/-! DEFINITION. What the spec leaves open (R4, second table; R32): constants with no body, so that no
proof can see a value of theirs, and the names of the instantiations a test may pick. -/

namespace Sys2Proof

/-- The checksum `CK16` (R53, D9), on the 30-byte strings the block calls it on: an open, total, pure
function.  Assumption log 8. -/
opaque Config.ck16 : BitVec 240 → Cksum

/-- The cipher pair (R51, R52, D10), open but for the one law `CBC_DEC(CBC_ENC(p,k,v),k,v) = p`: for each
key and IV a permutation of the 32-byte strings, `CBC_ENC` the map and `CBC_DEC` its inverse.  On a finite
set the law says exactly this.  Assumption log 8. -/
opaque Config.cipher : Key → Iv → Equiv.Perm Frame

/-- FREE VALUE: what the register of a number holds after the `n`-th reset where R32 says "unspecified"
(its low bits, at the register's width).  Assumption log 1. -/
opaque Config.unspecified (resets : Nat) (number : Nat) : BitVec 256

/-- FREE VALUE: what a command launched with a register of its row of R162 unwritten leaves in its result of a number (its
low bits, at the result's width), after the `launch`-th such launch since the `resets`-th reset: the command "has no
defined result", "not any particular value" (R163).  Assumption log 2. -/
opaque Config.unreadyResult (resets : Nat) (launch : Nat) (number : Nat) : BitVec 256

/-- Which checksum and cipher the integrator supplied (R4: a model "must not fix a value for one unless a
test names the instantiation").  Assumption log 8. -/
inductive Suite where
  /-- The open functions `Config.ck16` and `Config.cipher`: what the machine has after reset. -/
  | given
  /-- The TOY instantiation of 95_test_vectors.md section 1. -/
  | toy
  /-- The REF instantiation of 95_test_vectors.md section 1 (PRESUMED: general knowledge, G2 and G3). -/
  | ref
  deriving DecidableEq, Repr

end Sys2Proof
end

