-- ==== Sys2Proof/Machine/State.lean ====
section
/-! DEFINITION. The state of one ACS Frame Engine (10_state.md), as plain data: every register and hidden value of
R10 and R31 that stores something, grouped as the spec groups them, the running command (R142), and the model's own
record of the environment.  STATUS is a view of it (Machine/Flags.lean); CMD stores nothing (R29). -/

namespace Sys2Proof.Machine

/-- The twenty-six registers of R10. -/
inductive Reg where
  | status | cmd | malformedCnt | rxTmoCnt
  | localAddr | destAddr | localKey | localIv | destKey | destIv | rxTimeout
  | fCorr | fType | fLen | fIv | fb | pb
  | txPayload | txType | txLen
  | rxPayload | rxCorr | rxType | rxLen
  | sessCorr | sessIv
  deriving DecidableEq, Repr

/-- The six commands (R76), as the running command is remembered (R142). -/
inductive Cmd where
  | encHdr | decHdr | encMsg | decMsg | send | recv
  deriving DecidableEq, Repr

/-- `TX_STATE` (R20). -/
inductive TxState where
  | ready | headerSent | messageSent | complete
  deriving DecidableEq, Repr

/-- `RX_STATE` (R21); the codes 6 and 7 are never produced. -/
inductive RxState where
  | idle | awaitingHeader | headerValid | awaitingMessage | delivered | rejected
  deriving DecidableEq, Repr

/-- `SESS_ROLE` (R23, R24). -/
inductive Role where
  | initiator | responder
  deriving DecidableEq, Repr

/-- The outcome codes (R140); 8 to 15 are never produced. -/
inductive Result where
  | none | ok | noMessage | integrityHeader | integrityMessage | timeout | transportFailure | illegalCommand
  deriving DecidableEq, Repr

/-- The exchange session (R24). -/
structure Session where
  valid : Bool
  role : Role
  corr : CorrId
  iv : Iv
  deriving DecidableEq, Repr

/-- The four codec flags (R30). -/
structure CodecFlags where
  markerOk : Bool
  cksumOk : Bool
  hdrValid : Bool
  msgValid : Bool
  deriving DecidableEq, Repr

/-- The configuration group (R12 to R16). -/
structure ConfRegs where
  localAddr : Addr
  destAddr : Addr
  localKey : Key
  localIv : Iv
  destKey : Key
  destIv : Iv
  rxTimeout : BitVec 32
  deriving DecidableEq, Repr

/-- The codec operand group: `F_CORR`, `F_TYPE`, `F_LEN`, `F_IV` (R17), `FB`, `PB` (R18). -/
structure CodecRegs where
  corr : CorrId
  type : Byte
  len : Byte
  iv : Iv
  fb : Frame
  pb : Payload
  deriving DecidableEq, Repr

/-- The send operand group (R19). -/
structure TxRegs where
  payload : Payload
  type : Byte
  len : Byte
  deriving DecidableEq, Repr

/-- The receive result group (R22). -/
structure RxRegs where
  payload : Payload
  corr : CorrId
  type : Byte
  len : Byte
  deriving DecidableEq, Repr

/-- The hidden staging values (R31), and whether `rxf` holds a frame polled in `AWAITING_MESSAGE` that V5 has yet to
decode (R127, R128; DEDUCED, assumption log 4). -/
structure Staging where
  txf : Frame
  rxf : Frame
  rxhType : Byte
  rxhLen : Byte
  rxHeld : Bool
  deriving DecidableEq, Repr

/-- The answer of `TRANSPORT.send` (R47). -/
inductive SendAnswer where
  | ok | fail
  deriving DecidableEq, Repr

/-- One `TRANSPORT.send` transaction that was answered (R47): the address, the frame, the answer. -/
structure SendRecord where
  address : Addr
  frame : Frame
  answer : SendAnswer
  deriving DecidableEq, Repr

/-- One host read that was answered (R41): the register number and the value, zero-extended. -/
structure ReadRecord where
  number : Nat
  value : BitVec 256
  deriving DecidableEq, Repr

/-- What the outside does to the block between two micro-steps (R41, R42, R160; assumption log 6). -/
inductive Input where
  /-- `MemRead` of a register number (R41). -/
  | read (number : Nat)
  /-- `MemWrite` of a register number; the register's width of low bits is what is written (R42). -/
  | write (number : Nat) (value : BitVec 256)
  /-- The reset input is asserted (R160, R161). -/
  | reset
  /-- No access: the block takes its next micro-step first. -/
  | pass
  deriving DecidableEq, Repr

/-- The MODEL's record of the environment (assumption logs 1, 5 to 8): what it will do and answer, oldest first, and
what it was given. -/
structure Env where
  /-- Host accesses and resets still to come. -/
  inputs : List Input
  /-- Answers of `NONCE.draw` (R55). -/
  nonces : List (CorrId × Iv)
  /-- Answers of `TRANSPORT.send` (R47). -/
  sendAnswers : List SendAnswer
  /-- Answers of `TRANSPORT.poll` (R48): a frame, or none. -/
  pollAnswers : List (Option Frame)
  /-- What Transport was handed, oldest first. -/
  sent : List SendRecord
  /-- What host reads returned, oldest first. -/
  reads : List ReadRecord
  /-- Which checksum and cipher the integrator supplied. -/
  suite : Suite
  /-- How many times reset was asserted. -/
  resets : Nat
  deriving DecidableEq, Repr

/-- The whole state. -/
structure State where
  /-- The running command (R142); `STATUS.BUSY` is 1 iff there is one (assumption log 3). -/
  running : Option Cmd
  /-- `STATUS.TX_STATE` (R20). -/
  txState : TxState
  /-- `STATUS.RX_STATE` (R21). -/
  rxState : RxState
  /-- `STATUS.SESS_VALID`, `STATUS.SESS_ROLE`, `SESS_CORR`, `SESS_IV` (R24). -/
  sess : Session
  /-- `STATUS.OUTCOME` (R140). -/
  outcome : Result
  /-- `STATUS[15:12]` (R30). -/
  flags : CodecFlags
  /-- `MALFORMED_CNT` (R27). -/
  malformedCnt : BitVec 32
  /-- `RX_TMO_CNT` (R28). -/
  rxTmoCnt : BitVec 32
  conf : ConfRegs
  codec : CodecRegs
  tx : TxRegs
  rx : RxRegs
  stage : Staging
  /-- The registers R32 leaves unspecified that hold no defined value: nothing has written them since reset (R162, R163), or
  a command that had no defined result wrote them last (assumption log 2). -/
  unwritten : List Reg
  /-- The commands launched since reset with a register of their row of R162 unwritten, oldest first: the launches at which
  R163's premise failed.  The block does not detect it: the list's length only names the free values such a launch leaves
  (assumption log 2). -/
  unreadyLaunches : List Cmd
  env : Env
  deriving DecidableEq, Repr

/-- Why a step can stop with a fault. -/
inductive Fault where
  /-- Raised by SEND and RECV alone, in a sequencer position for which R116 and R130 have no transition: SEND running in
  `COMPLETE`, RECV running in `DELIVERED` or `REJECTED`.  No run from reset reaches one ("Nothing in the block is stuck",
  93_implementation_defined.md).  Safe (assumption log 9). -/
  | noTransition
  deriving DecidableEq, Repr

/-- Why an instruction can be refused. -/
inductive Refusal where
  /-- Raised by `exec`'s arm of an instruction that has no meaning yet; no arm raises it.  Safe. -/
  | notModelled (mnemonic : String)
  deriving DecidableEq, Repr

/-- No session: what `discard_session()` leaves (R26) and reset leaves (R32). -/
def Session.closed : Session := ⟨false, .initiator, 0, 0⟩

/-- The receive result registers cleared (R121, R32). -/
def RxRegs.zero : RxRegs := ⟨0, 0, 0, 0⟩

/-- The registers whose reset value is unspecified (R32), in the order of their numbers. -/
def Reg.unspecified : List Reg :=
  [.localAddr, .destAddr, .localKey, .localIv, .destKey, .destIv, .rxTimeout,
   .fCorr, .fType, .fLen, .fIv, .fb, .pb, .txPayload, .txType, .txLen]

/-- The environment before anything happened. -/
def Env.quiet : Env := ⟨[], [], [], [], [], [], .given, 0⟩

/-- The block after a reset (R32, R160), in an environment whose count of resets picks the free values.  The hidden
`TXF` and `RXF` have no register number; the model gives their free values the numbers 0x40 and 0x41. -/
def State.afterReset (e : Env) : State :=
  let u := Config.unspecified e.resets
  { running := none
    txState := .ready
    rxState := .idle
    sess := Session.closed
    outcome := .none
    flags := ⟨false, false, false, false⟩
    malformedCnt := 0
    rxTmoCnt := 0
    conf := ⟨(u 0x08).setWidth 64, (u 0x09).setWidth 64, (u 0x0A).setWidth 128, (u 0x0B).setWidth 128,
      (u 0x0C).setWidth 128, (u 0x0D).setWidth 128, (u 0x0E).setWidth 32⟩
    codec := ⟨(u 0x10).setWidth 32, (u 0x11).setWidth 8, (u 0x12).setWidth 8, (u 0x13).setWidth 128,
      u 0x14, (u 0x15).setWidth 240⟩
    tx := ⟨(u 0x18).setWidth 240, (u 0x19).setWidth 8, (u 0x1A).setWidth 8⟩
    rx := RxRegs.zero
    stage := ⟨u 0x40, u 0x41, 0, 0, false⟩
    unwritten := Reg.unspecified
    unreadyLaunches := []
    env := e }

/-- The machine right after reset (R32, R160). -/
def State.reset : State := State.afterReset Env.quiet

end Sys2Proof.Machine
end

