-- ==== Sys2Proof/Machine/Suite.lean ====
section
/-! DEFINITION. The checksum and the cipher as the block calls them (R51 to R53), under each instantiation: the open
functions of Config, and the two that 95_test_vectors.md section 1 names for tests (TOY, hand-checkable; REF,
PRESUMED from general knowledge: CRC-16/CCITT-FALSE and AES-128 in CBC mode).  Assumption log 8. -/

namespace Sys2Proof.Machine

/-! ### TOY (95_test_vectors.md section 1) -/

/-- The sum of the low `n` bytes of `s`, mod 2^16. -/
def byteSum : Nat → BitVec 240 → Cksum
  | 0, _ => 0
  | n + 1, s => byteSum n s + (s.extractLsb' (8 * n) 8).setWidth 16

/-- `CK16_TOY`. -/
def toyCk16 (s : BitVec 240) : Cksum := byteSum 30 s

/-- The two 16-byte blocks of 32 bytes. -/
def joinBlocks (x y : BitVec 128) : Frame := (x ++ y : BitVec (128 + 128))

/-- Block 0 (bytes `[0..16)`). -/
def block0 (p : Frame) : BitVec 128 := p.extractLsb' 128 128

/-- Block 1 (bytes `[16..32)`). -/
def block1 (p : Frame) : BitVec 128 := p.extractLsb' 0 128

/-- CBC encryption of two blocks by a block function (R51, informative; G1). -/
def cbcEncWith (e : BitVec 128 → BitVec 128) (p : Frame) (v : Iv) : Frame :=
  let c0 := e (block0 p ^^^ v)
  joinBlocks c0 (e (block1 p ^^^ c0))

/-- CBC decryption of two blocks by a block function (R52, informative; G1). -/
def cbcDecWith (d : BitVec 128 → BitVec 128) (c : Frame) (v : Iv) : Frame :=
  joinBlocks (d (block0 c) ^^^ v) (d (block1 c) ^^^ block0 c)

/-- The TOY block function `E_k(B) = B xor k`, its own inverse. -/
def toyBlock (k : Key) (b : BitVec 128) : BitVec 128 := b ^^^ k

/-! ### REF (95_test_vectors.md section 1; PRESUMED, G2 and G3) -/

/-- One message bit through CRC-16/CCITT-FALSE. -/
def crcBit (r : BitVec 16) (bit : Bool) : BitVec 16 :=
  if r.msb != bit then (r <<< 1) ^^^ 0x1021#16 else r <<< 1

/-- The low `n` bits of `s`, most significant first. -/
def crcBits : Nat → BitVec 240 → BitVec 16 → BitVec 16
  | 0, _, r => r
  | n + 1, s, r => crcBits n s (crcBit r (s.getLsbD n))

/-- `CK16_REF`. -/
def refCk16 (s : BitVec 240) : Cksum := crcBits 240 s 0xFFFF#16

/-- The AES S-box: entry `x` is bits `8x+7 .. 8x`. -/
def sboxTable : BitVec 2048 :=
  0x16bb54b00f2d99416842e6bf0d89a18cdf2855cee9871e9b948ed9691198f8e1#256 ++
  0x9e1dc186b95735610ef6034866b53e708a8bbd4b1f74dde8c6b4a61c2e2578ba#256 ++
  0x08ae7a65eaf4566ca94ed58d6d37c8e779e4959162acd3c25c2406490a3a32e0#256 ++
  0xdb0b5ede14b8ee4688902a22dc4f816073195d643d7ea7c41744975fec130ccd#256 ++
  0xd2f3ff1021dab6bcf5389d928f40a351a89f3c507f02f94585334d43fbaaefd0#256 ++
  0xcf584c4a39becb6a5bb1fc20ed00d153842fe329b3d63b52a05a6e1b1a2c8309#256 ++
  0x75b227ebe28012079a059618c323c7041531d871f1e5a534ccf73f362693fdb7#256 ++
  0xc072a49cafa2d4adf04759fa7dc982ca76abd7fe2b670130c56f6bf27b777c63#256

/-- The inverse S-box. -/
def invSboxTable : BitVec 2048 :=
  0x7d0c2155631469e126d677ba7e042b17619953833cbbebc8b0f52aae4d3be0a0#256 ++
  0xef9cc9939f7ae52d0d4ab519a97f51605fec8027591012b131c7078833a8dd1f#256 ++
  0xf45acd78fec0db9a2079d2c64b3e56fc1bbe18aa0e62b76f89c5291d711af147#256 ++
  0x6edf751ce837f9e28535ade72274ac9673e6b4f0cecff297eadc674f4111913a#256 ++
  0x6b8a130103bdafc1020f3fca8f1e2cd00645b3b80558e4f70ad3bc8c00abd890#256 ++
  0x849d8da75746155edab9edfd5048706c92b6655dcc5ca4d41698688664f6f872#256 ++
  0x25d18b6d49a25b76b224d92866a12e084ec3fa420b954cee3d23c2a632947b54#256 ++
  0xcbe9dec444438e3487ff2f9b8239e37cfbd7f3819ea340bf38a53630d56a0952#256

/-- SubBytes on one byte. -/
def sbox (x : Byte) : Byte := sboxTable.extractLsb' (8 * x.toNat) 8

/-- InvSubBytes on one byte. -/
def invSbox (x : Byte) : Byte := invSboxTable.extractLsb' (8 * x.toNat) 8

/-- Four of a kind: the bytes of a column, the columns of a block. -/
structure Quad (α : Type) where
  a : α
  b : α
  c : α
  d : α
  deriving DecidableEq, Repr

/-- An AES block, by columns. -/
abbrev AesBlock := Quad (Quad Byte)

/-- Apply a function to all four. -/
def Quad.map {α β : Type} (f : α → β) (q : Quad α) : Quad β := ⟨f q.a, f q.b, f q.c, f q.d⟩

/-- Combine two, place by place. -/
def Quad.zip {α β γ : Type} (f : α → β → γ) (p : Quad α) (q : Quad β) : Quad γ := ⟨f p.a q.a, f p.b q.b, f p.c q.c, f p.d q.d⟩

/-- The column that four bytes are, byte 0 first. -/
def columnOf (x : BitVec 32) : Quad Byte :=
  ⟨x.extractLsb' 24 8, x.extractLsb' 16 8, x.extractLsb' 8 8, x.extractLsb' 0 8⟩

/-- The four bytes of a column. -/
def columnBits (q : Quad Byte) : BitVec 32 := (q.a ++ q.b ++ q.c ++ q.d : BitVec (8 + 8 + 8 + 8))

/-- The columns of 16 bytes, byte 0 first. -/
def aesOfBits (x : BitVec 128) : AesBlock :=
  ⟨columnOf (x.extractLsb' 96 32), columnOf (x.extractLsb' 64 32), columnOf (x.extractLsb' 32 32),
   columnOf (x.extractLsb' 0 32)⟩

/-- The 16 bytes of four columns. -/
def aesToBits (q : AesBlock) : BitVec 128 :=
  (columnBits q.a ++ columnBits q.b ++ columnBits q.c ++ columnBits q.d : BitVec (32 + 32 + 32 + 32))

/-- Multiplication by x in the AES field. -/
def xtime (x : Byte) : Byte := if x.msb then (x <<< 1) ^^^ 0x1B#8 else x <<< 1

/-- MixColumns on one column. -/
def mixColumn (q : Quad Byte) : Quad Byte :=
  ⟨xtime q.a ^^^ (xtime q.b ^^^ q.b) ^^^ q.c ^^^ q.d, q.a ^^^ xtime q.b ^^^ (xtime q.c ^^^ q.c) ^^^ q.d,
   q.a ^^^ q.b ^^^ xtime q.c ^^^ (xtime q.d ^^^ q.d), (xtime q.a ^^^ q.a) ^^^ q.b ^^^ q.c ^^^ xtime q.d⟩

/-- InvMixColumns on one column: MixColumns after adding `4(a+c)` to `a`, `c` and `4(b+d)` to `b`, `d`. -/
def invMixColumn (q : Quad Byte) : Quad Byte :=
  let u := xtime (xtime (q.a ^^^ q.c))
  let v := xtime (xtime (q.b ^^^ q.d))
  mixColumn ⟨q.a ^^^ u, q.b ^^^ v, q.c ^^^ u, q.d ^^^ v⟩

/-- ShiftRows. -/
def shiftRows (q : AesBlock) : AesBlock :=
  ⟨⟨q.a.a, q.b.b, q.c.c, q.d.d⟩, ⟨q.b.a, q.c.b, q.d.c, q.a.d⟩, ⟨q.c.a, q.d.b, q.a.c, q.b.d⟩, ⟨q.d.a, q.a.b, q.b.c, q.c.d⟩⟩

/-- InvShiftRows. -/
def invShiftRows (q : AesBlock) : AesBlock :=
  ⟨⟨q.a.a, q.d.b, q.c.c, q.b.d⟩, ⟨q.b.a, q.a.b, q.d.c, q.c.d⟩, ⟨q.c.a, q.b.b, q.a.c, q.d.d⟩, ⟨q.d.a, q.c.b, q.b.c, q.a.d⟩⟩

/-- Add two columns. -/
def addColumn (p q : Quad Byte) : Quad Byte := p.zip (· ^^^ ·) q

/-- AddRoundKey. -/
def addKey (p k : AesBlock) : AesBlock := p.zip addColumn k

/-- The round keys after `k`, one per round constant. -/
def roundKeys : AesBlock → List Byte → List AesBlock
  | _, [] => []
  | k, r :: rs =>
    let a := addColumn k.a ⟨sbox k.d.b ^^^ r, sbox k.d.c, sbox k.d.d, sbox k.d.a⟩
    let b := addColumn k.b a
    let c := addColumn k.c b
    let next : AesBlock := ⟨a, b, c, addColumn k.d c⟩
    next :: roundKeys next rs

/-- The ten round constants. -/
def roundConstants : List Byte := [0x01, 0x02, 0x04, 0x08, 0x10, 0x20, 0x40, 0x80, 0x1B, 0x36]

/-- SubBytes then ShiftRows. -/
def subShift (b : AesBlock) : AesBlock := shiftRows (b.map (Quad.map sbox))

/-- InvShiftRows then InvSubBytes. -/
def invSubShift (b : AesBlock) : AesBlock := (invShiftRows b).map (Quad.map invSbox)

/-- The rounds, the last one without MixColumns. -/
def aesRounds : List AesBlock → AesBlock → AesBlock
  | [], b => b
  | [k], b => addKey (subShift b) k
  | k :: k' :: ks, b => aesRounds (k' :: ks) (addKey ((subShift b).map mixColumn) k)

/-- The rounds undone, the last one first. -/
def aesInvRounds : List AesBlock → AesBlock → AesBlock
  | [], b => b
  | [k], b => invSubShift (addKey b k)
  | k :: k' :: ks, b => invSubShift ((addKey (aesInvRounds (k' :: ks) b) k).map invMixColumn)

/-- AES-128 encryption of one block. -/
def aesEnc (key : Key) (b : BitVec 128) : BitVec 128 :=
  let k := aesOfBits key
  aesToBits (aesRounds (roundKeys k roundConstants) (addKey (aesOfBits b) k))

/-- AES-128 decryption of one block. -/
def aesDec (key : Key) (b : BitVec 128) : BitVec 128 :=
  let k := aesOfBits key
  aesToBits (addKey (aesInvRounds (roundKeys k roundConstants) (aesOfBits b)) k)

/-! ### What the block calls -/

end Sys2Proof.Machine

namespace Sys2Proof

/-- `CK16(data)` on 30 bytes (R53). -/
def Suite.ck16 : Suite → BitVec 240 → Cksum
  | .given, s => Config.ck16 s
  | .toy, s => Machine.toyCk16 s
  | .ref, s => Machine.refCk16 s

/-- `CBC_ENC(plaintext, key, iv)` (R51). -/
def Suite.cbcEnc : Suite → Frame → Key → Iv → Frame
  | .given, p, k, v => Config.cipher k v p
  | .toy, p, k, v => Machine.cbcEncWith (Machine.toyBlock k) p v
  | .ref, p, k, v => Machine.cbcEncWith (Machine.aesEnc k) p v

/-- `CBC_DEC(ciphertext, key, iv)` (R52). -/
def Suite.cbcDec : Suite → Frame → Key → Iv → Frame
  | .given, c, k, v => (Config.cipher k v).symm c
  | .toy, c, k, v => Machine.cbcDecWith (Machine.toyBlock k) c v
  | .ref, c, k, v => Machine.cbcDecWith (Machine.aesDec k) c v

end Sys2Proof
end

