-- ==== Sys2Proof/Machine/Codec.lean ====
section
/-! DEFINITION. The pure functions of the codec: the two checksum operations (R54), EncodeHeader and DecodeHeader
(R90, R92), EncodeMessage and DecodeMessage (R100, R102).  The commands and the sequencers call these and no other. -/

namespace Sys2Proof.Machine

/-- `appendChecksum(buffer, 30)` (R54): the 30 bytes and the big-endian checksum over them. -/
def appendChecksum (u : Suite) (body : Payload) : Frame := withCksum body (u.ck16 body)

/-- `verifyChecksum(buffer, 30)` (R54): recompute and compare all 16 bits. -/
def verifyChecksum (u : Suite) (f : Frame) : Bool := u.ck16 (frameBody f) == frameCksum f

/-- `EncodeHeader(c, t, l, v)` (R90). -/
def encodeHeader (u : Suite) (c : CorrId) (t l : Byte) (v : Iv) : Frame := appendChecksum u (headerBody c t l v)

/-- The fields a header frame carries. -/
structure HeaderFields where
  corr : CorrId
  type : Byte
  len : Byte
  iv : Iv
  deriving DecidableEq, Repr

/-- The fields of a frame, sliced (R74). -/
def headerFields (f : Frame) : HeaderFields := ⟨frameCorr f, frameType f, frameLen f, frameIv f⟩

/-- `DecodeHeader(f)` (R92): none when the marker does not match (no field is extracted), else the fields and whether
the checksum verified. -/
def decodeHeader (u : Suite) (f : Frame) : Option (HeaderFields × Bool) :=
  if hasMarker f then some (headerFields f, verifyChecksum u f) else none

/-- `EncodeMessage(p, k, v)` (R100): checksum, then encrypt. -/
def encodeMessage (u : Suite) (p : Payload) (k : Key) (v : Iv) : Frame := u.cbcEnc (appendChecksum u p) k v

/-- `DecodeMessage(m, k, v)` (R102): decrypt, then validate; the 30 bytes come back either way. -/
def decodeMessage (u : Suite) (m : Frame) (k : Key) (v : Iv) : Payload × Bool :=
  let b := u.cbcDec m k v
  (frameBody b, verifyChecksum u b)

end Sys2Proof.Machine
end

