-- ==== Sys2Proof/Machine/Flags.lean ====
section
/-! DEFINITION. STATUS (R23): the codes of its fields (R20, R21, R140), the word the host reads, and the codec flags
(R30). -/

namespace Sys2Proof.Machine

/-- The code of `TX_STATE` (R20). -/
def TxState.code : TxState → BitVec 2
  | .ready => 0
  | .headerSent => 1
  | .messageSent => 2
  | .complete => 3

/-- The code of `RX_STATE` (R21). -/
def RxState.code : RxState → BitVec 3
  | .idle => 0
  | .awaitingHeader => 1
  | .headerValid => 2
  | .awaitingMessage => 3
  | .delivered => 4
  | .rejected => 5

/-- The code of `SESS_ROLE` (R23). -/
def Role.code : Role → BitVec 1
  | .initiator => 0
  | .responder => 1

/-- The code of an outcome (R140). -/
def Result.code : Result → BitVec 4
  | .none => 0
  | .ok => 1
  | .noMessage => 2
  | .integrityHeader => 3
  | .integrityMessage => 4
  | .timeout => 5
  | .transportFailure => 6
  | .illegalCommand => 7

/-- `STATUS.BUSY` (R23, R142, R143): is a command executing? -/
def State.busy (s : State) : Bool := s.running.isSome

/-- STATUS as a host reads it (R23), bits 31:16 zero. -/
def State.statusWord (s : State) : BitVec 32 :=
  (0#16 ++ BitVec.ofBool s.flags.msgValid ++ BitVec.ofBool s.flags.hdrValid ++ BitVec.ofBool s.flags.cksumOk
    ++ BitVec.ofBool s.flags.markerOk ++ s.outcome.code ++ s.sess.role.code ++ BitVec.ofBool s.sess.valid
    ++ s.rxState.code ++ s.txState.code ++ BitVec.ofBool s.busy : BitVec (16 + 1 + 1 + 1 + 1 + 4 + 1 + 1 + 3 + 2 + 1))

/-- The three header flags after a DEC_HDR (R30, R93): the checksum counts only when the marker matched. -/
def CodecFlags.setHeader (m k : Bool) (f : CodecFlags) : CodecFlags :=
  { f with markerOk := m, cksumOk := k, hdrValid := m && k }

/-- `MSG_VALID` after a DEC_MSG (R30, R103). -/
def CodecFlags.setMessage (ok : Bool) (f : CodecFlags) : CodecFlags := { f with msgValid := ok }

end Sys2Proof.Machine
end

