-- ==== Sys2Proof/Machine/Operands.lean ====
section
/-! DEFINITION. The host register space (R10, R40): numbers, widths, access rights, and reading and writing one whole
register (R41, R42, R44).  A value travels in 256 bits, zero-extended; a narrower register takes the low bits. -/

namespace Sys2Proof.Machine

/-- The registers in the order of R10's table. -/
def Reg.all : List Reg :=
  [.status, .cmd, .malformedCnt, .rxTmoCnt, .localAddr, .destAddr, .localKey, .localIv, .destKey, .destIv, .rxTimeout,
   .fCorr, .fType, .fLen, .fIv, .fb, .pb, .txPayload, .txType, .txLen, .rxPayload, .rxCorr, .rxType, .rxLen,
   .sessCorr, .sessIv]

/-- The register's number (R10, D3). -/
def Reg.number : Reg → Nat
  | .status => 0x00
  | .cmd => 0x01
  | .malformedCnt => 0x02
  | .rxTmoCnt => 0x03
  | .localAddr => 0x08
  | .destAddr => 0x09
  | .localKey => 0x0A
  | .localIv => 0x0B
  | .destKey => 0x0C
  | .destIv => 0x0D
  | .rxTimeout => 0x0E
  | .fCorr => 0x10
  | .fType => 0x11
  | .fLen => 0x12
  | .fIv => 0x13
  | .fb => 0x14
  | .pb => 0x15
  | .txPayload => 0x18
  | .txType => 0x19
  | .txLen => 0x1A
  | .rxPayload => 0x20
  | .rxCorr => 0x21
  | .rxType => 0x22
  | .rxLen => 0x23
  | .sessCorr => 0x28
  | .sessIv => 0x29

/-- The register of a number; none for a number that is not in the table (R41, R42). -/
def Reg.ofNumber (n : Nat) : Option Reg := Reg.all.find? fun r => r.number == n

/-- The register's width in bits (R10). -/
def Reg.width : Reg → Nat
  | .status => 32
  | .cmd => 8
  | .malformedCnt => 32
  | .rxTmoCnt => 32
  | .localAddr => 64
  | .destAddr => 64
  | .localKey => 128
  | .localIv => 128
  | .destKey => 128
  | .destIv => 128
  | .rxTimeout => 32
  | .fCorr => 32
  | .fType => 8
  | .fLen => 8
  | .fIv => 128
  | .fb => 256
  | .pb => 240
  | .txPayload => 240
  | .txType => 8
  | .txLen => 8
  | .rxPayload => 240
  | .rxCorr => 32
  | .rxType => 8
  | .rxLen => 8
  | .sessCorr => 32
  | .sessIv => 128

/-- The host may write the register while `BUSY = 0` (R10, R11): exactly those whose reset value R32 leaves
unspecified. -/
def Reg.writable (r : Reg) : Bool := Reg.unspecified.contains r

/-- The whole current value of a register (R41); CMD reads zero (R29). -/
def State.readReg (s : State) : Reg → BitVec 256
  | .status => s.statusWord.setWidth 256
  | .cmd => 0
  | .malformedCnt => s.malformedCnt.setWidth 256
  | .rxTmoCnt => s.rxTmoCnt.setWidth 256
  | .localAddr => s.conf.localAddr.setWidth 256
  | .destAddr => s.conf.destAddr.setWidth 256
  | .localKey => s.conf.localKey.setWidth 256
  | .localIv => s.conf.localIv.setWidth 256
  | .destKey => s.conf.destKey.setWidth 256
  | .destIv => s.conf.destIv.setWidth 256
  | .rxTimeout => s.conf.rxTimeout.setWidth 256
  | .fCorr => s.codec.corr.setWidth 256
  | .fType => s.codec.type.setWidth 256
  | .fLen => s.codec.len.setWidth 256
  | .fIv => s.codec.iv.setWidth 256
  | .fb => s.codec.fb
  | .pb => s.codec.pb.setWidth 256
  | .txPayload => s.tx.payload.setWidth 256
  | .txType => s.tx.type.setWidth 256
  | .txLen => s.tx.len.setWidth 256
  | .rxPayload => s.rx.payload.setWidth 256
  | .rxCorr => s.rx.corr.setWidth 256
  | .rxType => s.rx.type.setWidth 256
  | .rxLen => s.rx.len.setWidth 256
  | .sessCorr => s.sess.corr.setWidth 256
  | .sessIv => s.sess.iv.setWidth 256

/-- Remember that these registers have been written since reset (R162, R163). -/
def State.markWritten (rs : List Reg) (s : State) : State :=
  { s with unwritten := s.unwritten.filter fun r => !rs.contains r }

/-- Remember that these registers hold no defined value, being the result of an unready launch (R163; assumption log 2). -/
def State.markUndefined (rs : List Reg) (s : State) : State :=
  { s with unwritten := Reg.all.filter fun r => s.unwritten.contains r || rs.contains r }

/-- The registers with access "read, write" take the value, all bits at once (R42); the others keep theirs (R11). -/
def State.putReg (r : Reg) (v : BitVec 256) (s : State) : State :=
  match r with
  | .localAddr => { s with conf := { s.conf with localAddr := v.setWidth 64 } }
  | .destAddr => { s with conf := { s.conf with destAddr := v.setWidth 64 } }
  | .localKey => { s with conf := { s.conf with localKey := v.setWidth 128 } }
  | .localIv => { s with conf := { s.conf with localIv := v.setWidth 128 } }
  | .destKey => { s with conf := { s.conf with destKey := v.setWidth 128 } }
  | .destIv => { s with conf := { s.conf with destIv := v.setWidth 128 } }
  | .rxTimeout => { s with conf := { s.conf with rxTimeout := v.setWidth 32 } }
  | .fCorr => { s with codec := { s.codec with corr := v.setWidth 32 } }
  | .fType => { s with codec := { s.codec with type := v.setWidth 8 } }
  | .fLen => { s with codec := { s.codec with len := v.setWidth 8 } }
  | .fIv => { s with codec := { s.codec with iv := v.setWidth 128 } }
  | .fb => { s with codec := { s.codec with fb := v } }
  | .pb => { s with codec := { s.codec with pb := v.setWidth 240 } }
  | .txPayload => { s with tx := { s.tx with payload := v.setWidth 240 } }
  | .txType => { s with tx := { s.tx with type := v.setWidth 8 } }
  | .txLen => { s with tx := { s.tx with len := v.setWidth 8 } }
  | .status => s
  | .cmd => s
  | .malformedCnt => s
  | .rxTmoCnt => s
  | .rxPayload => s
  | .rxCorr => s
  | .rxType => s
  | .rxLen => s
  | .sessCorr => s
  | .sessIv => s

/-- `r <- v` by the host (R42). -/
def State.writeReg (r : Reg) (v : BitVec 256) (s : State) : State := (s.putReg r v).markWritten [r]

/-! ### The launch of a command (R162, R163) -/

/-- The registers that must have been written before the command is launched (R162). -/
def Cmd.launchRegs : Cmd → List Reg
  | .encHdr => [.fCorr, .fType, .fLen, .fIv]
  | .decHdr => [.fb]
  | .encMsg => [.pb, .destKey, .destIv]
  | .decMsg => [.fb, .localKey, .fIv]
  | .send => [.txPayload, .txType, .txLen, .destAddr, .destKey]
  | .recv => [.localKey, .rxTimeout]

/-- Every register of the command's row of R162 has been written since reset: R163's premise (assumption log 2). -/
def State.launchReady (c : Cmd) (s : State) : Bool := c.launchRegs.all fun r => !s.unwritten.contains r

/-- The record of unready launches after the command's launch (R163). -/
def State.unreadyLaunchesAfter (c : Cmd) (s : State) : List Cmd :=
  if s.launchReady c then s.unreadyLaunches else s.unreadyLaunches ++ [c]

/-- A result of the last unready launch: no particular value (R163).  A result that is a register has its number; the codec
flags have 0x00, at their bits of STATUS; the frames SEND hands over, the address it hands them to and the verdict on RECV's
message have the numbers 0x40 to 0x43, which no register has (assumption log 2). -/
def State.unreadyResult (n : Nat) (s : State) : BitVec 256 :=
  Config.unreadyResult s.env.resets s.unreadyLaunches.length n

end Sys2Proof.Machine
end

