-- ==== Sys2Proof/Machine/Ops.lean ====
section
/-! DEFINITION. The operations that commands share: acceptance (R142) and completion (R143), the session (R25, R26),
one transaction with a collaborator (R47, R48, R55), the host port (R41 to R43, R78) and the reset input (R160). -/

namespace Sys2Proof.Machine

/-- The result of a step. -/
abbrev Out := Host.Outcome State Fault Refusal

/-- The instruction a running command is (R76). -/
def Cmd.instr : Cmd → Instr
  | .encHdr => .encHdr
  | .decHdr => .decHdr
  | .encMsg => .encMsg
  | .decMsg => .decMsg
  | .send => .send
  | .recv => .recv

/-- The command an instruction belongs to: a frame is judged by a RECV. -/
def Cmd.ofInstr : Instr → Cmd
  | .encHdr => .encHdr
  | .decHdr => .decHdr
  | .encMsg => .encMsg
  | .decMsg => .decMsg
  | .send => .send
  | .recv => .recv
  | .headerFrame _ _ _ _ _ => .recv
  | .messageFrame _ _ => .recv

/-- Acceptance (R142 iii): `BUSY <- 1`, `OUTCOME <- NONE`, the command becomes the running command.  "The hardware does not
detect" a launch on an unwritten register (R163): the block goes on, with no defined result, and the launch is recorded
(assumption log 2). -/
def State.accept (c : Cmd) (s : State) : State :=
  { s with running := some c, outcome := .none, unreadyLaunches := s.unreadyLaunchesAfter c }

/-- Completion, `raise <Outcome>` (R143): `OUTCOME <- code`, `BUSY <- 0`.  Nothing is saved anywhere else. -/
def State.complete (r : Result) (s : State) : State := { s with outcome := r, running := none }

/-- `create_session(role, c, v)` (R25). -/
def State.createSession (role : Role) (c : CorrId) (v : Iv) (s : State) : State := { s with sess := ⟨true, role, c, v⟩ }

/-- `discard_session()` (R26): the session registers and the held header fields are cleared. -/
def State.discardSession (s : State) : State :=
  { s with sess := Session.closed, stage := { s.stage with rxhType := 0, rxhLen := 0 } }

/-- No other command is running: this one may be accepted, or is the running one (R43, R142). -/
def State.canRun (c : Cmd) (s : State) : Bool := s.running == none || s.running == some c

/-- A codec command (D33): accepted, run and completed with `OK` in one micro-step; ignored while another command is
running (R43).  Launched with a register of its row of R162 unwritten, its result is not any particular value (R163). -/
def State.codecCommand (c : Cmd) (effect unready : State → State) (s : State) : State :=
  if s.canRun c then ((if s.launchReady c then effect else unready) (s.accept c)).complete .ok else s

/-! ### One transaction with a collaborator: none while the environment has not answered (R50; assumption log 5) -/

/-- `NONCE.draw()` (R55). -/
def State.drawNonce (s : State) : Option ((CorrId × Iv) × State) :=
  match s.env.nonces with
  | [] => none
  | n :: rest => some (n, { s with env := { s.env with nonces := rest } })

/-- The address of this SEND: `DEST_ADDR` (R60, R113, R114); no particular address if its launch was not ready (R163). -/
def State.sendAddress (s : State) : Addr :=
  if s.launchReady .send then s.conf.destAddr else (s.unreadyResult 0x42).setWidth 64

/-- `TRANSPORT.send(DEST_ADDR, f)` (R47): the frame, held in `TXF`, is handed over. -/
def State.sendFrame (f : Frame) (s : State) : Option (SendAnswer × State) :=
  match s.env.sendAnswers with
  | [] => none
  | a :: rest =>
    some (a, { s with
      stage := { s.stage with txf := f }
      env := { s.env with sendAnswers := rest, sent := s.env.sent ++ [⟨s.sendAddress, f, a⟩] } })

/-- `TRANSPORT.poll()` (R48): a frame that is returned is consumed. -/
def State.pollFrame (s : State) : Option (Option Frame × State) :=
  match s.env.pollAnswers with
  | [] => none
  | a :: rest => some (a, { s with env := { s.env with pollAnswers := rest } })

/-- `RXF <- f`. -/
def State.holdFrame (f : Frame) (s : State) : State := { s with stage := { s.stage with rxf := f } }

/-! ### The host port and the reset input -/

/-- The values the block exports to Transport at all times (R60): `LOCAL_ADDR` and `DEST_ADDR`. -/
def State.exported (s : State) : Addr × Addr := (s.conf.localAddr, s.conf.destAddr)

/-- The value `MemRead` returns (R41): 0 for a number that is not in the table. -/
def State.portValue (n : Nat) (s : State) : BitVec 256 :=
  match Reg.ofNumber n with
  | some r => s.readReg r
  | none => 0

/-- `MemRead` (R41): no side effect on the block; the host gets the value. -/
def State.hostRead (n : Nat) (s : State) : State :=
  { s with env := { s.env with reads := s.env.reads ++ [⟨n, s.portValue n⟩] } }

/-- `MemWrite` of a register other than CMD (R42): ignored while busy (R43), for a read-only register and for a number
that is not in the table. -/
def State.hostWrite (n : Nat) (v : BitVec 256) (s : State) : State :=
  match Reg.ofNumber n with
  | some r => if !s.busy && r.writable then s.writeReg r v else s
  | none => s

/-- A CMD write that selects no command (R78, R141). -/
def State.illegalCommand (s : State) : State := { s with outcome := .illegalCommand }

/-- The reset input (R160, R161): every piece of the block's state takes its reset value and a running command ends
without an outcome; what the environment did and was given stays. -/
def State.assertReset (s : State) : State := State.afterReset { s.env with resets := s.env.resets + 1 }

/-- The next host input is taken. -/
def State.popInput (s : State) : State := { s with env := { s.env with inputs := s.env.inputs.tail } }

end Sys2Proof.Machine
end

