-- ==== Sys2Proof/Machine/Recv.lean ====
section
/-! DEFINITION. RECV (43_receive.md), micro-step by micro-step. -/

namespace Sys2Proof.Machine

/-- V0, acceptance (R121). -/
def recvV0 (s : State) : State := { s.accept .recv with rxState := .idle, rx := RxRegs.zero, rxTmoCnt := 0 }

/-- V1, the idle poll (R122); waits while Transport has not answered. -/
def recvV1 (s : State) : State :=
  match s.pollFrame with
  | none => s
  | some (none, s) => s.complete .noMessage
  | some (some f, s) => { s.holdFrame f with rxState := .awaitingHeader }

/-- An error exit: the session is discarded, `REJECTED` (R125, R127, R128). -/
def recvReject (r : Result) (s : State) : State := ({ s with rxState := .rejected }).discardSession.complete r

/-- V2, the header test (R123), on the held frame: marker first (R124), then checksum (R125). -/
def recvV2 (f : Frame) (s : State) : State :=
  match decodeHeader s.env.suite f with
  | none => ({ s.holdFrame f with malformedCnt := s.malformedCnt + 1, rxState := .idle }).complete .noMessage
  | some (_, false) => recvReject .integrityHeader (s.holdFrame f)
  | some (_, true) => { s.holdFrame f with rxState := .headerValid }

/-- The budget of polls of this RECV: `RX_TIMEOUT` (R126); no particular count if its launch was not ready (R163). -/
def State.waitBudget (s : State) : BitVec 32 :=
  if s.launchReady .recv then s.conf.rxTimeout else (s.unreadyResult 0x03).setWidth 32

/-- V3, session creation (R126), from the fields of the held header. -/
def recvV3 (s : State) : State :=
  let h := headerFields s.stage.rxf
  { s.createSession .responder h.corr h.iv with
    stage := { s.stage with rxhType := h.type, rxhLen := h.len, rxHeld := false }
    rxTmoCnt := s.waitBudget
    rxState := .awaitingMessage }

/-- V4, one round of the bounded wait (R127); waits while Transport has not answered. -/
def recvV4 (s : State) : State :=
  if s.rxTmoCnt = 0 then recvReject .timeout s
  else
    match s.pollFrame with
    | none => s
    | some (none, s) => { s with rxTmoCnt := s.rxTmoCnt - 1 }
    | some (some f, s) => { s with stage := { s.stage with rxf := f, rxHeld := true } }

/-- Delivery (R129): all four results, `DELIVERED`, the session discarded, in one micro-step. -/
def recvDeliver (r : RxRegs) (s : State) : State :=
  ({ s with rx := r, rxState := .delivered }).discardSession.complete .ok

/-- What this RECV makes of its message frame, under `LOCAL_KEY` and the session IV (R128): the four results it would deliver
(R129) and whether the message is valid; no particular results, valid or not, if its launch was not ready (R163). -/
def State.judgeMessage (f : Frame) (s : State) : RxRegs × Bool :=
  if s.launchReady .recv then
    let d := decodeMessage s.env.suite f s.conf.localKey s.sess.iv
    (⟨d.1, s.sess.corr, s.stage.rxhType, s.stage.rxhLen⟩, d.2)
  else
    let u := s.unreadyResult
    (⟨(u 0x20).setWidth 240, (u 0x21).setWidth 32, (u 0x22).setWidth 8, (u 0x23).setWidth 8⟩, (u 0x43).getLsbD 0)

/-- V5, message decode (R128), on the held frame. -/
def recvV5 (f : Frame) (s : State) : State :=
  let d := s.judgeMessage f
  let s := { s with stage := { s.stage with rxf := f, rxHeld := false } }
  if d.2 then recvDeliver d.1 s else recvReject .integrityMessage s

/-- The micro-step at the sequencer's position (R130). -/
def recvMicroStep (s : State) : Out :=
  match s.rxState with
  | .idle => .next (recvV1 s)
  | .awaitingHeader => .next (recvV2 s.stage.rxf s)
  | .headerValid => .next (recvV3 s)
  | .awaitingMessage => .next (if s.stage.rxHeld then recvV5 s.stage.rxf s else recvV4 s)
  | .delivered => .fault .noTransition
  | .rejected => .fault .noTransition

/-- RECV (R120): accepted when no command runs, its next micro-step when it runs, ignored while another runs (R43). -/
def execRecv (s : State) : Out :=
  match s.running with
  | none => .next (recvV0 s)
  | some c => if c = .recv then recvMicroStep s else .next s

end Sys2Proof.Machine
end

