-- ==== Sys2Proof/Machine/Frames.lean ====
section
/-! DEFINITION. The two frame rows of the opcode table, as what the receive sequencer does with the frame it holds.
Which test the frame meets is told by the sequencer's state, never by the frame's own shape (R73, R131); a frame that
no RECV holds does nothing to the block (R149).  Assumption log 11. -/

namespace Sys2Proof.Machine

/-- The receive sequencer takes up the frame: as a header at V2 (R123), as a message at V5 (R128), else not at all. -/
def recvFrame (f : Frame) (s : State) : State :=
  if s.running = some .recv then
    match s.rxState with
    | .awaitingHeader => recvV2 f s
    | .awaitingMessage => if s.stage.rxHeld then recvV5 f s else s
    | .idle => s
    | .headerValid => s
    | .delivered => s
    | .rejected => s
  else s

/-- HEADER_FRAME (R71, R92). -/
def execHeaderFrame (c : CorrId) (t l : Byte) (v : Iv) (k : Cksum) (s : State) : Out :=
  .next (recvFrame (headerBits c t l v k) s)

/-- MESSAGE_FRAME (R72, R102). -/
def execMessageFrame (x y : BitVec 128) (s : State) : Out := .next (recvFrame (messageBits x y) s)

end Sys2Proof.Machine
end

