-- ==== Sys2Proof/Machine/HeaderCodec.lean ====
section
/-! DEFINITION. ENC_HDR and DEC_HDR (40_header_codec.md). -/

namespace Sys2Proof.Machine

/-- `FB <- EncodeHeader(F_CORR, F_TYPE, F_LEN, F_IV)` (R91). -/
def encHdrEffect (s : State) : State :=
  State.markWritten [.fb]
    { s with codec := { s.codec with fb := encodeHeader s.env.suite s.codec.corr s.codec.type s.codec.len s.codec.iv } }

/-- `FB` after an ENC_HDR that had no defined result (R163). -/
def encHdrUnready (s : State) : State :=
  State.markUndefined [.fb] { s with codec := { s.codec with fb := s.unreadyResult 0x14 } }

/-- The header flags, and the field registers when the marker matched (R93, D17). -/
def decHdrEffect (s : State) : State :=
  match decodeHeader s.env.suite s.codec.fb with
  | none => { s with flags := s.flags.setHeader false false }
  | some (h, k) =>
    State.markWritten [.fCorr, .fType, .fLen, .fIv]
      { s with
        flags := s.flags.setHeader true k
        codec := { s.codec with corr := h.corr, type := h.type, len := h.len, iv := h.iv } }

/-- The header flags and the field registers after a DEC_HDR that had no defined result (R163): whether it found a marker,
and with it whether it wrote the field registers (D17), is open too. -/
def decHdrUnready (s : State) : State :=
  let u := s.unreadyResult
  let m := (u 0x00).getLsbD 12
  State.markUndefined [.fCorr, .fType, .fLen, .fIv]
    { s with
      flags := s.flags.setHeader m (m && (u 0x00).getLsbD 13)
      codec :=
        if m then
          { s.codec with
            corr := (u 0x10).setWidth 32
            type := (u 0x11).setWidth 8
            len := (u 0x12).setWidth 8
            iv := (u 0x13).setWidth 128 }
        else s.codec }

/-- ENC_HDR (R91). -/
def execEncHdr (s : State) : Out := .next (s.codecCommand .encHdr encHdrEffect encHdrUnready)

/-- DEC_HDR (R93). -/
def execDecHdr (s : State) : Out := .next (s.codecCommand .decHdr decHdrEffect decHdrUnready)

end Sys2Proof.Machine
end

