-- ==== Sys2Proof/Machine/MessagePipeline.lean ====
section
/-! DEFINITION. ENC_MSG and DEC_MSG (41_message_pipelines.md). -/

namespace Sys2Proof.Machine

/-- `FB <- EncodeMessage(PB, DEST_KEY, DEST_IV)` (R101). -/
def encMsgEffect (s : State) : State :=
  State.markWritten [.fb]
    { s with codec := { s.codec with fb := encodeMessage s.env.suite s.codec.pb s.conf.destKey s.conf.destIv } }

/-- `FB` after an ENC_MSG that had no defined result (R163). -/
def encMsgUnready (s : State) : State :=
  State.markUndefined [.fb] { s with codec := { s.codec with fb := s.unreadyResult 0x14 } }

/-- `(PB, MSG_VALID) <- DecodeMessage(FB, LOCAL_KEY, F_IV)` (R103); PB is written even when the check fails. -/
def decMsgEffect (s : State) : State :=
  let d := decodeMessage s.env.suite s.codec.fb s.conf.localKey s.codec.iv
  State.markWritten [.pb] { s with codec := { s.codec with pb := d.1 }, flags := s.flags.setMessage d.2 }

/-- `PB` and `MSG_VALID` after a DEC_MSG that had no defined result (R163). -/
def decMsgUnready (s : State) : State :=
  let u := s.unreadyResult
  State.markUndefined [.pb]
    { s with
      codec := { s.codec with pb := (u 0x15).setWidth 240 }
      flags := s.flags.setMessage ((u 0x00).getLsbD 15) }

/-- ENC_MSG (R101). -/
def execEncMsg (s : State) : Out := .next (s.codecCommand .encMsg encMsgEffect encMsgUnready)

/-- DEC_MSG (R103). -/
def execDecMsg (s : State) : Out := .next (s.codecCommand .decMsg decMsgEffect decMsgUnready)

end Sys2Proof.Machine
end

