-- ==== Sys2Proof/Machine/Send.lean ====
section
/-! DEFINITION. SEND (42_send.md), micro-step by micro-step. -/

namespace Sys2Proof.Machine

/-- T0, acceptance (R111). -/
def sendT0 (s : State) : State := { s.accept .send with txState := .ready }

/-- T1, generation (R112); waits while the nonce source has not answered. -/
def sendT1 (s : State) : State :=
  match s.drawNonce with
  | none => s
  | some ((c, v), s) => s.createSession .initiator c v

/-- One transmit (R113, R114): on `ok` the next state, on `fail` the session is discarded and the command ends, with
`TX_STATE` as it was (D15); waits while Transport has not answered. -/
def sendTransmit (f : Frame) (sent : TxState) (s : State) : State :=
  match s.sendFrame f with
  | none => s
  | some (.ok, s) => { s with txState := sent }
  | some (.fail, s) => s.discardSession.complete .transportFailure

/-- The header frame of this SEND (R113); no particular frame if its launch was not ready (R163). -/
def State.headerToSend (s : State) : Frame :=
  if s.launchReady .send then encodeHeader s.env.suite s.sess.corr s.tx.type s.tx.len s.sess.iv else s.unreadyResult 0x40

/-- The message frame of this SEND (R114), under the session IV; no particular frame if its launch was not ready (R163). -/
def State.messageToSend (s : State) : Frame :=
  if s.launchReady .send then encodeMessage s.env.suite s.tx.payload s.conf.destKey s.sess.iv else s.unreadyResult 0x41

/-- T2, header (R113). -/
def sendT2 (s : State) : State := sendTransmit s.headerToSend .headerSent s

/-- T3, message (R114). -/
def sendT3 (s : State) : State := sendTransmit s.messageToSend .messageSent s

/-- T4, completion (R115). -/
def sendT4 (s : State) : State := ({ s with txState := .complete }).discardSession.complete .ok

/-- The micro-step at the sequencer's position (R116): in `READY` the draw comes first, and makes the session. -/
def sendMicroStep (s : State) : Out :=
  match s.txState with
  | .ready => .next (if s.sess.valid then sendT2 s else sendT1 s)
  | .headerSent => .next (sendT3 s)
  | .messageSent => .next (sendT4 s)
  | .complete => .fault .noTransition

/-- SEND (R110): accepted when no command runs, its next micro-step when it runs, ignored while another runs (R43). -/
def execSend (s : State) : Out :=
  match s.running with
  | none => .next (sendT0 s)
  | some c => if c = .send then sendMicroStep s else .next s

end Sys2Proof.Machine
end

