-- ==== Sys2Proof/Machine/Fetch.lean ====
section
/-! DEFINITION. What a step finds to do: a host input if one is pending, else the sequencer's next micro-step.  A CMD
write is decoded as a command word (R75), a held frame as the frame its position says (R73). -/

namespace Sys2Proof.Machine

/-- What a step has found. -/
inductive Fetched where
  /-- Run this instruction in this state. -/
  | run (i : Instr) (s : State)
  /-- The step is done: nothing, or a host access, or reset, and no instruction. -/
  | done (s : State)

/-- The sequencer's next micro-step: nothing while no command runs (R159); where RECV holds a frame, that frame decoded
for its position; else the running command. -/
def fetchMicroStep (s : State) : Fetched :=
  match s.running with
  | none => .done s
  | some c =>
    if c = .recv ∧ s.rxState = .awaitingHeader then .run (decodeFirstFrame s.stage.rxf) s
    else if c = .recv ∧ s.rxState = .awaitingMessage ∧ s.stage.rxHeld = true then .run (decodeNextFrame s.stage.rxf) s
    else .run c.instr s

/-- A write to CMD (R142): ignored while busy, else decoded; `BUSY` is tested before the opcode (R150). -/
def fetchCommand (w : Byte) (s : State) : Fetched :=
  if s.busy then .done s
  else
    match decodeCommand w with
    | some i => .run i s
    | none => .done s.illegalCommand

/-- A host write (R42). -/
def fetchWrite (n : Nat) (v : BitVec 256) (s : State) : Fetched :=
  if n = Reg.cmd.number then fetchCommand (v.setWidth 8) s else .done (s.hostWrite n v)

/-- The whole of what a step decides before an instruction runs. -/
def fetch (s : State) : Fetched :=
  match s.env.inputs with
  | [] => fetchMicroStep s
  | .pass :: _ => fetchMicroStep s.popInput
  | .read n :: _ => .done (s.popInput.hostRead n)
  | .write n v :: _ => fetchWrite n v s.popInput
  | .reset :: _ => .done s.popInput.assertReset

/-- A command word placed for the next step: a CMD write next in line, no command running. -/
def placeCommand (w : Byte) (s : State) : State :=
  { s with running := none, env := { s.env with inputs := .write Reg.cmd.number (w.setWidth 256) :: s.env.inputs } }

/-- A frame placed for the next step: RECV holds it, where a header is tested for if it has the marker, else in an open
session where a message is awaited; no host access comes first. -/
def placeFrame (f : Frame) (s : State) : State :=
  let s := { s with running := some .recv, env := { s.env with inputs := .pass :: s.env.inputs } }
  if hasMarker f then
    { s.holdFrame f with rxState := .awaitingHeader, sess := Session.closed }
  else
    { s with
      rxState := .awaitingMessage
      sess := ⟨true, .responder, s.sess.corr, s.sess.iv⟩
      stage := { s.stage with rxf := f, rxHeld := true } }

/-- A word of the opcode table placed for the next step. -/
def placeWord (nbits w : Nat) (s : State) : State :=
  match tableSpace nbits with
  | some .command => placeCommand (BitVec.ofNat 8 w) s
  | some .firstFrame => placeFrame (BitVec.ofNat 256 w) s
  | some .nextFrame => placeFrame (BitVec.ofNat 256 w) s
  | none => s

end Sys2Proof.Machine
end

