-- ==== Sys2Proof/Safety.lean ====
section
/-! DEFINITION. What counts as a well-launched command (R162, R163), as a run that has ended (R169), and the invariant of
the states the block reaches, as Bools. -/

namespace Sys2Proof.Safety

open Sys2Proof.Machine

/-- Every register of the row of R162 has been written since reset: the premise R163 asks of a claim about a command. -/
def launchReady (i : Instr) (s : State) : Bool := s.launchReady (Cmd.ofInstr i)

/-- The next host input launches a command that is not ready: the launch at which R163's premise fails. -/
def unreadyLaunch (s : State) : Bool :=
  match s.env.inputs with
  | .write n v :: _ =>
    n == Reg.cmd.number && !s.busy &&
      match decodeCommand (v.setWidth 8) with
      | some i => !launchReady i s
      | none => false
  | .read _ :: _ => false
  | .reset :: _ => false
  | .pass :: _ => false
  | [] => false

/-- A command ends between these two states (R169): BUSY goes from 1 to 0. -/
def commandEnds (s t : State) : Bool := s.busy && !t.busy

/-- The run has ended (R169): no command is executing and the host makes no further access, nor is reset to come.  A state
with `BUSY = 1` is never final. -/
def ended (s : State) : Bool := !s.busy && s.env.inputs.all fun x => x == .pass

/-- The next host input is a write that the block will lose (R43, R164 a). -/
def losesWrite (s : State) : Bool :=
  match s.env.inputs with
  | .write _ _ :: _ => s.busy
  | .read _ :: _ => false
  | .reset :: _ => false
  | .pass :: _ => false
  | [] => false

/-- No session, no held header field, no held message frame (R24, R26, R31). -/
def noSession (s : State) : Bool :=
  s.sess == Session.closed && s.stage.rxhType == 0 && s.stage.rxhLen == 0 && !s.stage.rxHeld

/-- The frame is a header that validates (R92). -/
def validHeader (u : Suite) (f : Frame) : Bool := hasMarker f && verifyChecksum u f

/-- Where SEND stands while it runs (R116): the session is open from the draw on, in the role of initiator. -/
def sendPosition (s : State) : Bool :=
  s.stage.rxhType == 0 && s.stage.rxhLen == 0 && !s.stage.rxHeld &&
  match s.txState with
  | .ready => s.sess == Session.closed || (s.sess.valid && s.sess.role == .initiator)
  | .headerSent => s.sess.valid && s.sess.role == .initiator
  | .messageSent => s.sess.valid && s.sess.role == .initiator
  | .complete => false

/-- Where RECV stands while it runs (R130): no session before a header has validated, one in the role of responder, made
from the header's fields, while a message is awaited, and the counter within the budget of a RECV launched ready (R163). -/
def recvPosition (s : State) : Bool :=
  match s.rxState with
  | .idle => noSession s
  | .awaitingHeader => noSession s
  | .headerValid => noSession s && validHeader s.env.suite s.stage.rxf
  | .awaitingMessage => s.sess.valid && s.sess.role == .responder && (!s.launchReady .recv || s.rxTmoCnt ≤ s.conf.rxTimeout)
  | .delivered => false
  | .rejected => false

/-- The sequencer: with no command running there is no session and neither machine is in a passing state; a running
command is SEND or RECV, at a position of its own, and no outcome has been recorded (R24, R116, R130, R140). -/
def sequencerOk (s : State) : Bool :=
  match s.running with
  | none => noSession s && s.txState != .messageSent && (s.rxState == .idle || s.rxState == .delivered || s.rxState == .rejected)
  | some .send => s.outcome == .none && sendPosition s && (s.rxState == .idle || s.rxState == .delivered || s.rxState == .rejected)
  | some .recv => s.outcome == .none && recvPosition s && s.txState != .messageSent
  | some .encHdr => false
  | some .decHdr => false
  | some .encMsg => false
  | some .decMsg => false

/-- `HDR_VALID` is `HDR_MARKER_OK and HDR_CKSUM_OK`, and the checksum counts only with the marker (R30). -/
def flagsOk (s : State) : Bool :=
  s.flags.hdrValid == (s.flags.markerOk && s.flags.cksumOk) && (!s.flags.cksumOk || s.flags.markerOk)

/-- The result registers read zero unless the last RECV delivered (R22). -/
def resultsOk (s : State) : Bool := s.rxState == .delivered || s.rx == RxRegs.zero

/-- Only registers that R32 leaves unspecified are ever counted as unwritten, in the table's order. -/
def unwrittenOk (s : State) : Bool := s.unwritten.isSublist Reg.unspecified

/-- A running command was launched with the registers of its row of R162 written, or its launch is the last one recorded
as not ready (R163). -/
def launchRecorded (s : State) : Bool :=
  match s.running with
  | none => true
  | some c => s.launchReady c || s.unreadyLaunches.getLast? == some c

/-- The invariant. -/
def inv (s : State) : Bool := sequencerOk s && flagsOk s && resultsOk s && unwrittenOk s && launchRecorded s

end Sys2Proof.Safety
end

