-- ==== Sys2Proof/Certificates/Slice0/Obligations.lean ====
section
/-! DEFINITION. The statements for the provers.  Each docstring names the rule of spec/ it formalises; where a statement
rests on the model's own choice, the docstring names the assumption log entry.  A result is written as an equation
`exec i s = .next { s with … }`, so it is also the frame: whatever it does not name is unchanged. -/

open Sys2Proof Sys2Proof.Machine Sys2Proof.Safety

/-! ### Encoding -/

/-- 30_encoding.md sections 1 and 3: no bit of an encoding is dropped.  Every instruction, in every space it may stand in,
with every operand, is what the decoder reads from its encoding, and the bytes after it are left over. -/
def Obligations.DecodeOfEncodeIsTheInstruction : Prop :=
  ∀ (sp : Space) (i : Instr) (rest : List Byte), i.wellFormed sp = true → decode sp (encode i ++ rest) = .ok (i, rest)

/-- 30_encoding.md sections 1 to 3: each word has one meaning.  What the decoder accepts is the encoding of what it gives,
and that instruction may stand in the space it was read from. -/
def Obligations.EveryDecodedWordIsAnEncoding : Prop :=
  ∀ (sp : Space) (bs : List Byte) (i : Instr) (rest : List Byte),
    decode sp bs = .ok (i, rest) → i.wellFormed sp = true ∧ bs = encode i ++ rest

/-- R76, R78 (30_encoding.md section 3): the opcode map, and no other word selects a command. -/
def Obligations.CommandWordsAreTheOpcodeMap : Prop :=
  ∀ w : Byte, decodeCommand w =
    if w = 0x01 then some .encHdr else if w = 0x02 then some .decHdr else if w = 0x03 then some .encMsg
    else if w = 0x04 then some .decMsg else if w = 0x05 then some .send else if w = 0x06 then some .recv else none

/-- Words written out from the spec (R76; vector V1.1's TOY frame for R71; R72, R73, R78): what the decoder reads. -/
def Obligations.SampleWordsDecode : Prop :=
  decode .command [0x05, 0xAA] = .ok (.send, [0xAA]) ∧
  decode .command [0x06] = .ok (.recv, []) ∧
  decode .command [0x07] = .error (.illegalOpcode 0x07) ∧
  decode .command [] = .error .truncated ∧
  decode .firstFrame [0xFF, 0xFF, 0xFF, 0xFF, 0xFF, 0xFF, 0xFF, 0xFF, 0x01, 0x02, 0x03, 0x04, 0x05, 0x1E,
      0x00, 0x01, 0x02, 0x03, 0x04, 0x05, 0x06, 0x07, 0x08, 0x09, 0x0A, 0x0B, 0x0C, 0x0D, 0x0E, 0x0F, 0x08, 0x9D] =
    .ok (.headerFrame 0x01020304 0x05 0x1E 0x000102030405060708090A0B0C0D0E0F 0x089D, []) ∧
  decode .nextFrame (List.replicate 16 0xFF ++ List.replicate 16 0x01) =
    .ok (.messageFrame 0xFFFFFFFFFFFFFFFFFFFFFFFFFFFFFFFF 0x01010101010101010101010101010101, [])

/-- R71: the 32 bytes of an encoded header, field by field, integers big-endian, and the 30 bytes its checksum covers. -/
def Obligations.HeaderFrameBytes : Prop :=
  ∀ (u : Suite) (c : CorrId) (t l : Byte) (v : Iv),
    toBytes 32 (encodeHeader u c t l v) =
      List.replicate 8 0xFF ++ be32 c ++ [t] ++ [l] ++ toBytes 16 v ++ be16 (u.ck16 (headerBody c t l v)) ∧
    toBytes 30 (headerBody c t l v) = List.replicate 8 0xFF ++ be32 c ++ [t] ++ [l] ++ toBytes 16 v

/-- R72, R100 (41_message_pipelines.md section 1): a message frame is the encryption of a block whose 32 bytes are the
payload's 30 and their checksum, big-endian. -/
def Obligations.MessagePlaintextBytes : Prop :=
  ∀ (u : Suite) (p : Payload) (k : Key) (v : Iv), ∃ b : Frame,
    encodeMessage u p k v = u.cbcEnc b k v ∧ toBytes 32 b = toBytes 30 p ++ be16 (u.ck16 p)

/-- R92, R102: the decoders, byte by byte: `DecodeHeader` extracts nothing without the marker, else the slices and
whether the checksum of the first 30 bytes is the last two; `DecodeMessage` gives the first 30 decrypted bytes either way. -/
def Obligations.DecodersReadTheBytes : Prop :=
  ∀ (u : Suite) (f : Frame) (k : Key) (v : Iv),
    (let bs := toBytes 32 f
     (bs.take 8 ≠ List.replicate 8 0xFF → decodeHeader u f = none) ∧
     (bs.take 8 = List.replicate 8 0xFF → ∃ (c : CorrId) (t l : Byte) (w : Iv) (ok : Bool),
       decodeHeader u f = some (⟨c, t, l, w⟩, ok) ∧
       c.toNat = ube ((bs.drop 8).take 4) ∧ bs[12]? = some t ∧ bs[13]? = some l ∧
       toBytes 16 w = (bs.drop 14).take 16 ∧ (ok = true ↔ be16 (u.ck16 (frameBody f)) = bs.drop 30) ∧
       toBytes 30 (frameBody f) = bs.take 30)) ∧
    (let b := u.cbcDec f k v
     let d := decodeMessage u f k v
     toBytes 30 d.1 = (toBytes 32 b).take 30 ∧ (d.2 = true ↔ be16 (u.ck16 d.1) = (toBytes 32 b).drop 30))

/-- R77 (30_encoding.md section 2): a frame is no header exactly when one of the marker's 64 bits is clear. -/
def Obligations.MarkerGateIsExact : Prop :=
  ∀ (u : Suite) (f : Frame), decodeHeader u f = none ↔ ∃ i < 64, f.getLsbD (192 + i) = false

/-- R94 (40_header_codec.md section 3, the spec's own inference): decoding an encoded header gives its fields back,
valid, for every checksum. -/
def Obligations.HeaderRoundTrip : Prop :=
  ∀ (u : Suite) (c : CorrId) (t l : Byte) (v : Iv),
    decodeHeader u (encodeHeader u c t l v) = some (⟨c, t, l, v⟩, true)

/-- R95 (40_header_codec.md section 3, the spec's own inference): a frame that differs from an encoded header in the
marker is no header; one that keeps its checksum bytes is valid iff `CK16` of its body is the same; one that differs in
the checksum bytes alone is not valid. -/
def Obligations.HeaderTamper : Prop :=
  ∀ (u : Suite) (c : CorrId) (t l : Byte) (v : Iv) (f : Frame),
    let h := encodeHeader u c t l v
    (frameMarker f ≠ frameMarker h → decodeHeader u f = none) ∧
    (frameMarker f = frameMarker h → frameCksum f = frameCksum h →
      decodeHeader u f = some (headerFields f, decide (u.ck16 (frameBody f) = u.ck16 (frameBody h)))) ∧
    (frameBody f = frameBody h → f ≠ h → decodeHeader u f = some (⟨c, t, l, v⟩, false))

/-- R104 (41_message_pipelines.md section 3, the spec's own inference): decoding an encoded message under the same key and
IV gives the payload back, valid, for every checksum. -/
def Obligations.MessageRoundTrip : Prop :=
  ∀ (u : Suite) (p : Payload) (k : Key) (v : Iv), decodeMessage u (encodeMessage u p k v) k v = (p, true)

/-! ### The host port, STATUS and reset -/

/-- R23, with the codes of R20, R21 and R140: where STATUS, as it is read, shows each field. -/
def Obligations.StatusWordLayout : Prop :=
  ∀ s : State,
    s.readReg .status = s.statusWord.setWidth 256 ∧
    s.statusWord.extractLsb' 0 1 = BitVec.ofBool s.running.isSome ∧
    s.statusWord.extractLsb' 1 2 = s.txState.code ∧
    s.statusWord.extractLsb' 3 3 = s.rxState.code ∧
    s.statusWord.extractLsb' 6 1 = BitVec.ofBool s.sess.valid ∧
    s.statusWord.extractLsb' 7 1 = s.sess.role.code ∧
    s.statusWord.extractLsb' 8 4 = s.outcome.code ∧
    s.statusWord.extractLsb' 12 1 = BitVec.ofBool s.flags.markerOk ∧
    s.statusWord.extractLsb' 13 1 = BitVec.ofBool s.flags.cksumOk ∧
    s.statusWord.extractLsb' 14 1 = BitVec.ofBool s.flags.hdrValid ∧
    s.statusWord.extractLsb' 15 1 = BitVec.ofBool s.flags.msgValid ∧
    s.statusWord.extractLsb' 16 16 = 0 ∧
    [TxState.ready, .headerSent, .messageSent, .complete].map TxState.code = [0, 1, 2, 3] ∧
    [RxState.idle, .awaitingHeader, .headerValid, .awaitingMessage, .delivered, .rejected].map RxState.code =
      [0, 1, 2, 3, 4, 5] ∧
    [Role.initiator, .responder].map Role.code = [0, 1] ∧
    [Result.none, .ok, .noMessage, .integrityHeader, .integrityMessage, .timeout, .transportFailure,
      .illegalCommand].map Result.code = [0, 1, 2, 3, 4, 5, 6, 7]

/-- R32: the values the spec gives for reset.  Of the registers it leaves unspecified the statement says nothing (their
values are free, assumption log 1). -/
def Obligations.ResetValues : Prop :=
  let s := State.reset
  s.statusWord = 0 ∧ s.malformedCnt = 0 ∧ s.rxTmoCnt = 0 ∧ s.sess.corr = 0 ∧ s.sess.iv = 0 ∧
  s.rx.payload = 0 ∧ s.rx.corr = 0 ∧ s.rx.type = 0 ∧ s.rx.len = 0 ∧ s.stage.rxhType = 0 ∧ s.stage.rxhLen = 0

/-- R160, R161: the reset input, in any state, busy or not: the reset values, no running command, no outcome; a frame
already handed to Transport stays handed over, and no transaction is made. -/
def Obligations.ResetInputEndsEverything : Prop :=
  ∀ (s : State) (rest : List Input), s.env.inputs = .reset :: rest →
    ∃ t, step s = .next t ∧
      t.running = none ∧ t.outcome = .none ∧ t.txState = .ready ∧ t.rxState = .idle ∧ t.statusWord = 0 ∧
      t.sess = ⟨false, .initiator, 0, 0⟩ ∧ t.rx = ⟨0, 0, 0, 0⟩ ∧ t.malformedCnt = 0 ∧ t.rxTmoCnt = 0 ∧
      t.stage.rxhType = 0 ∧ t.stage.rxhLen = 0 ∧
      t.env = { s.env with inputs := rest, resets := s.env.resets + 1 }

/-- R41, with the numbers of R10: a host read returns the whole current value of the register of its number, zero for CMD
and for a number that is not in the table, and has no side effect on the block, busy or not; the model records the answer
(assumption log 7). -/
def Obligations.HostReadHasNoSideEffect : Prop :=
  ∀ s : State,
    let value : Nat → BitVec 256 := fun n =>
      match n with
      | 0x00 => s.statusWord.setWidth 256
      | 0x01 => 0
      | 0x02 => s.malformedCnt.setWidth 256
      | 0x03 => s.rxTmoCnt.setWidth 256
      | 0x08 => s.conf.localAddr.setWidth 256
      | 0x09 => s.conf.destAddr.setWidth 256
      | 0x0A => s.conf.localKey.setWidth 256
      | 0x0B => s.conf.localIv.setWidth 256
      | 0x0C => s.conf.destKey.setWidth 256
      | 0x0D => s.conf.destIv.setWidth 256
      | 0x0E => s.conf.rxTimeout.setWidth 256
      | 0x10 => s.codec.corr.setWidth 256
      | 0x11 => s.codec.type.setWidth 256
      | 0x12 => s.codec.len.setWidth 256
      | 0x13 => s.codec.iv.setWidth 256
      | 0x14 => s.codec.fb
      | 0x15 => s.codec.pb.setWidth 256
      | 0x18 => s.tx.payload.setWidth 256
      | 0x19 => s.tx.type.setWidth 256
      | 0x1A => s.tx.len.setWidth 256
      | 0x20 => s.rx.payload.setWidth 256
      | 0x21 => s.rx.corr.setWidth 256
      | 0x22 => s.rx.type.setWidth 256
      | 0x23 => s.rx.len.setWidth 256
      | 0x28 => s.sess.corr.setWidth 256
      | 0x29 => s.sess.iv.setWidth 256
      | _ => 0
    (∀ (n : Nat) (rest : List Input), s.env.inputs = .read n :: rest →
      step s = .next { s with env := { s.env with inputs := rest, reads := s.env.reads ++ [⟨n, value n⟩] } }) ∧
    (∀ r : Reg, s.readReg r = value r.number)

/-- R42, with R10's access column: a host write while idle.  The sixteen read-write registers are named; one of them takes
the value at its width and no other register changes; a read-only register or a number that is not in the table ignores
it; CMD takes it as a command request. -/
def Obligations.HostWriteWhileIdle : Prop :=
  ∀ (s : State) (n : Nat) (v : BitVec 256) (rest : List Input),
    s.env.inputs = .write n v :: rest → s.running = none →
    let popped : State := { s with env := { s.env with inputs := rest } }
    (∀ r : Reg, r.writable = true ↔ r ∈ [.localAddr, .destAddr, .localKey, .localIv, .destKey, .destIv, .rxTimeout,
      .fCorr, .fType, .fLen, .fIv, .fb, .pb, .txPayload, .txType, .txLen]) ∧
    (∀ r : Reg, r.number = n → r.writable = true → ∃ t, step s = .next t ∧
      t.readReg r = (v.setWidth r.width).setWidth 256 ∧ (∀ r', r' ≠ r → t.readReg r' = s.readReg r') ∧
      t = { popped with conf := t.conf, codec := t.codec, tx := t.tx, unwritten := t.unwritten }) ∧
    (∀ r : Reg, r.number = n → r.writable = false → r ≠ .cmd → step s = .next popped) ∧
    ((∀ r : Reg, r.number ≠ n) → step s = .next popped) ∧
    (n = 0x01 → step s =
      match decodeCommand (v.setWidth 8) with
      | some i => exec i popped
      | none => .next { popped with outcome := .illegalCommand })

/-- R43: while busy every host write, a CMD write among them, is ignored: no state changes. -/
def Obligations.HostWriteWhileBusyIsLost : Prop :=
  ∀ (s : State) (n : Nat) (v : BitVec 256) (rest : List Input),
    s.env.inputs = .write n v :: rest → s.running ≠ none →
    step s = .next { s with env := { s.env with inputs := rest } }

/-- R78, R141: a CMD write of 0x00 or of 0x07 to 0xFF, while idle, sets `ILLEGAL_COMMAND` and changes nothing else. -/
def Obligations.IllegalCommandChangesOnlyOutcome : Prop :=
  ∀ (s : State) (w : Byte) (rest : List Input),
    s.env.inputs = .write 0x01 (w.setWidth 256) :: rest → s.running = none → (w = 0x00 ∨ 0x07 ≤ w.toNat) →
    step s = .next { s with outcome := .illegalCommand, env := { s.env with inputs := rest } }

/-- R162, R163 (70_reset_and_hazards.md section 2; the model's own fields, assumption log 2): which registers count as
unwritten: after reset those R32 leaves unspecified; a host write and a ready codec command's result take theirs out;
SEND, RECV and the frames none.  A launch with a register of its row of R162 unwritten is recorded, it and nothing else,
and goes on, which is the model's choice (R163: the hardware does not detect it; a model must treat it as a fault of the
launch), with no particular result: what a codec command writes, the frames SEND hands over and the address it hands them to,
the count RECV waits for and what it makes of its message are left open, and the codec registers written hold no defined
value; a micro-step that uses no register of the row is what it is of a ready command. -/
def Obligations.UnwrittenRegistersAreTracked : Prop :=
  (State.reset.unwritten = [.localAddr, .destAddr, .localKey, .localIv, .destKey, .destIv, .rxTimeout,
    .fCorr, .fType, .fLen, .fIv, .fb, .pb, .txPayload, .txType, .txLen]) ∧
  (∀ s rest, s.env.inputs = .reset :: rest → ∃ t, step s = .next t ∧ t.unwritten = State.reset.unwritten) ∧
  (∀ (s : State) (r : Reg) (v : BitVec 256) (rest : List Input), s.env.inputs = .write r.number v :: rest →
    s.running = none → r.writable = true →
    ∃ t, step s = .next t ∧ ∀ q, q ∈ t.unwritten ↔ q ∈ s.unwritten ∧ q ≠ r) ∧
  (∀ s t : State, s.running = none →
    (launchReady .encHdr s = true → exec .encHdr s = .next t → ∀ q, q ∈ t.unwritten ↔ q ∈ s.unwritten ∧ q ≠ .fb) ∧
    (launchReady .encMsg s = true → exec .encMsg s = .next t → ∀ q, q ∈ t.unwritten ↔ q ∈ s.unwritten ∧ q ≠ .fb) ∧
    (launchReady .decMsg s = true → exec .decMsg s = .next t → ∀ q, q ∈ t.unwritten ↔ q ∈ s.unwritten ∧ q ≠ .pb) ∧
    (launchReady .decHdr s = true → exec .decHdr s = .next t → frameMarker s.codec.fb ≠ 0xFFFFFFFFFFFFFFFF →
      t.unwritten = s.unwritten) ∧
    (launchReady .decHdr s = true → exec .decHdr s = .next t → frameMarker s.codec.fb = 0xFFFFFFFFFFFFFFFF →
      ∀ q, q ∈ t.unwritten ↔ q ∈ s.unwritten ∧ q ≠ .fCorr ∧ q ≠ .fType ∧ q ≠ .fLen ∧ q ≠ .fIv)) ∧
  (∀ (i : Instr) (s t : State), i ≠ .encHdr → i ≠ .decHdr → i ≠ .encMsg → i ≠ .decMsg →
    exec i s = .next t → t.unwritten = s.unwritten) ∧
  (∀ (i : Instr) (s : State),
    let row : List Reg := match i with
      | .encHdr => [.fCorr, .fType, .fLen, .fIv]
      | .decHdr => [.fb]
      | .encMsg => [.pb, .destKey, .destIv]
      | .decMsg => [.fb, .localKey, .fIv]
      | .send => [.txPayload, .txType, .txLen, .destAddr, .destKey]
      | .recv => [.localKey, .rxTimeout]
      | .headerFrame _ _ _ _ _ => [.localKey, .rxTimeout]
      | .messageFrame _ _ => [.localKey, .rxTimeout]
    launchReady i s = true ↔ ∀ q ∈ row, q ∉ s.unwritten) ∧
  (∀ s : State, s.running = none →
    (launchReady .encHdr s = false → ∃ (f : Frame) (l : List Reg), (∀ q, q ∈ l ↔ q ∈ s.unwritten ∨ q = .fb) ∧
      exec .encHdr s = .next { s with
        outcome := .ok, codec := { s.codec with fb := f }, unwritten := l
        unreadyLaunches := s.unreadyLaunches ++ [.encHdr] }) ∧
    (launchReady .decHdr s = false → ∃ (m k : Bool) (c : CorrId) (t n : Byte) (v : Iv) (l : List Reg),
      (∀ q, q ∈ l ↔ q ∈ s.unwritten ∨ q = .fCorr ∨ q = .fType ∨ q = .fLen ∨ q = .fIv) ∧
      exec .decHdr s = .next { s with
        outcome := .ok
        flags := { s.flags with markerOk := m, cksumOk := m && k, hdrValid := m && k }
        codec := if m then { s.codec with corr := c, type := t, len := n, iv := v } else s.codec
        unwritten := l
        unreadyLaunches := s.unreadyLaunches ++ [.decHdr] }) ∧
    (launchReady .encMsg s = false → ∃ (f : Frame) (l : List Reg), (∀ q, q ∈ l ↔ q ∈ s.unwritten ∨ q = .fb) ∧
      exec .encMsg s = .next { s with
        outcome := .ok, codec := { s.codec with fb := f }, unwritten := l
        unreadyLaunches := s.unreadyLaunches ++ [.encMsg] }) ∧
    (launchReady .decMsg s = false → ∃ (p : Payload) (ok : Bool) (l : List Reg),
      (∀ q, q ∈ l ↔ q ∈ s.unwritten ∨ q = .pb) ∧
      exec .decMsg s = .next { s with
        outcome := .ok, codec := { s.codec with pb := p }, flags := { s.flags with msgValid := ok }, unwritten := l
        unreadyLaunches := s.unreadyLaunches ++ [.decMsg] }) ∧
    (launchReady .send s = false → exec .send s = .next { s with
      running := some .send, outcome := .none, txState := .ready
      unreadyLaunches := s.unreadyLaunches ++ [.send] }) ∧
    (launchReady .recv s = false → exec .recv s = .next { s with
      running := some .recv, outcome := .none, rxState := .idle, rx := ⟨0, 0, 0, 0⟩, rxTmoCnt := 0
      unreadyLaunches := s.unreadyLaunches ++ [.recv] })) ∧
  (∀ (s : State) (a : SendAnswer) (rest : List SendAnswer), s.running = some .send → launchReady .send s = false →
    (s.txState = .ready ∧ s.sess.valid = true) ∨ s.txState = .headerSent → s.env.sendAnswers = a :: rest →
    ∃ (d : Addr) (f : Frame),
    let e := { s.env with sendAnswers := rest, sent := s.env.sent ++ [⟨d, f, a⟩] }
    (a = .ok → exec .send s = .next { s with
      txState := if s.txState = .ready then .headerSent else .messageSent
      stage := { s.stage with txf := f }
      env := e }) ∧
    (a = .fail → exec .send s = .next { s with
      running := none
      outcome := .transportFailure
      sess := ⟨false, .initiator, 0, 0⟩
      stage := { s.stage with txf := f, rxhType := 0, rxhLen := 0 }
      env := e })) ∧
  (∀ s : State, s.running = some .recv → launchReady .recv s = false → s.rxState = .headerValid →
    ∃ budget : BitVec 32, exec .recv s = .next { s with
      sess := ⟨true, .responder, frameCorr s.stage.rxf, frameIv s.stage.rxf⟩
      stage := { s.stage with rxhType := frameType s.stage.rxf, rxhLen := frameLen s.stage.rxf, rxHeld := false }
      rxTmoCnt := budget
      rxState := .awaitingMessage }) ∧
  (∀ (s : State) (x y : BitVec 128), s.running = some .recv → launchReady .recv s = false →
    s.rxState = .awaitingMessage → s.stage.rxHeld = true →
    ∃ (valid : Bool) (results : RxRegs), exec (.messageFrame x y) s = .next { s with
      running := none
      outcome := if valid then .ok else .integrityMessage
      rxState := if valid then .delivered else .rejected
      rx := if valid then results else s.rx
      sess := ⟨false, .initiator, 0, 0⟩
      stage := { s.stage with rxf := messageBits x y, rxHeld := false, rxhType := 0, rxhLen := 0 } }) ∧
  (∀ (i : Instr) (s : State), s.running = some .send ∨ s.running = some .recv →
    (s.running = some .send → s.txState ≠ .headerSent ∧ (s.txState = .ready → s.sess.valid = false)) →
    (s.running = some .recv → s.rxState ≠ .headerValid ∧ (s.rxState = .awaitingMessage → s.stage.rxHeld = false)) →
    exec i s =
      match exec i { s with unwritten := [] } with
      | .next t => .next { t with unwritten := s.unwritten }
      | .fault e => .fault e
      | .refused e => .refused e) ∧
  (∀ s t : State, inv s = true → step s = .next t →
    (unreadyLaunch s = false → t.unreadyLaunches = s.unreadyLaunches ∨
      (s.env.inputs.head? = some .reset ∧ t.unreadyLaunches = [])) ∧
    (unreadyLaunch s = true → ∃ (v : BitVec 256) (rest : List Input) (c : Cmd), s.running = none ∧
      s.env.inputs = .write 0x01 v :: rest ∧ decode .command [v.setWidth 8] = .ok (c.instr, []) ∧
      launchReady c.instr s = false ∧ t.unreadyLaunches = s.unreadyLaunches ++ [c]))

/-! ### A step runs the decoded instruction -/

/-- R142, R75: when the byte a host writes to CMD decodes to a command and no command is running, the step is that
instruction, run once the write has been taken. -/
def Obligations.StepRunsTheDecodedCommand : Prop :=
  ∀ (s : State) (w : Byte) (i : Instr) (rest : List Input),
    s.env.inputs = .write 0x01 (w.setWidth 256) :: rest → s.running = none → decode .command [w] = .ok (i, []) →
    step s = exec i { s with env := { s.env with inputs := rest } }

/-- R73: when RECV holds a frame, the step is the instruction its 32 bytes decode to where they stand: a first frame in
`AWAITING_HEADER`, a next frame in `AWAITING_MESSAGE`.  A pending `pass` input is taken first (assumption log 6). -/
def Obligations.StepRunsTheHeldFrame : Prop :=
  ∀ (s : State) (i : Instr), s.env.inputs.head? = none ∨ s.env.inputs.head? = some .pass → s.running = some .recv →
    (s.rxState = .awaitingHeader ∧ decode .firstFrame (toBytes 32 s.stage.rxf) = .ok (i, [])) ∨
    (s.rxState = .awaitingMessage ∧ s.stage.rxHeld = true ∧ decode .nextFrame (toBytes 32 s.stage.rxf) = .ok (i, [])) →
    step s = exec i { s with env := { s.env with inputs := s.env.inputs.tail } }

/-- R142 (60_exceptions.md section 2): while a command runs and no frame is held for judging, the step is the running
command's next micro-step.  A pending `pass` input is taken first (assumption log 6). -/
def Obligations.StepRunsTheRunningCommand : Prop :=
  ∀ (s : State) (c : Cmd), s.env.inputs.head? = none ∨ s.env.inputs.head? = some .pass → s.running = some c →
    (c = .recv → s.rxState ≠ .awaitingHeader ∧ (s.rxState = .awaitingMessage → s.stage.rxHeld = false)) →
    step s = exec c.instr { s with env := { s.env with inputs := s.env.inputs.tail } }

/-- RECV's own micro-step on a held frame is the decoded frame's (43_receive.md; the model's reading, assumption log 11):
so every micro-step of a running command is `exec` of that command. -/
def Obligations.RecvJudgesTheHeldFrame : Prop :=
  ∀ s : State, s.running = some .recv →
    (s.rxState = .awaitingHeader → exec .recv s = exec (decodeFirstFrame s.stage.rxf) s) ∧
    (s.rxState = .awaitingMessage → s.stage.rxHeld = true → exec .recv s = exec (decodeNextFrame s.stage.rxf) s)

/-- R159, R169: with `BUSY = 0` and no host access the block keeps all state; a run has ended when no command is executing
and the host makes no further access, and stays ended; a command ends when STATUS.BUSY goes from 1 to 0, with an outcome
(R143) or by reset (R160).  That the host's silence is an input list holding nothing but `pass`, a pending reset counted as
an access, is assumption log 6; a codec command is one step and never shows BUSY 1, assumption log 10. -/
def Obligations.IdleBlockKeepsItsState : Prop :=
  (∀ s : State, s.running = none → s.env.inputs = [] → step s = .next s) ∧
  (∀ s : State, ended s = true ↔ s.running = none ∧ ∀ x ∈ s.env.inputs, x = .pass) ∧
  (∀ s : State, ended s = true → ∃ t, step s = .next t ∧ ended t = true ∧
    t = { s with env := { s.env with inputs := s.env.inputs.tail } }) ∧
  (∀ s t : State, commandEnds s t = true ↔ s.statusWord.getLsbD 0 = true ∧ t.statusWord.getLsbD 0 = false) ∧
  (∀ s t : State, step s = .next t → commandEnds s t = true →
    t.outcome ≠ .none ∨ s.env.inputs.head? = some .reset)

/-! ### The codec commands -/

/-- R91: ENC_HDR.  Here and at the other launches the premise is R163's, every register of the command's row of R162
written; what a launch without it does, and what the model's own `unwritten` becomes, `UnwrittenRegistersAreTracked` says. -/
def Obligations.EncHdrResult : Prop :=
  ∀ s : State, s.running = none → launchReady .encHdr s = true → ∃ l, exec .encHdr s = .next { s with
    outcome := .ok
    codec := { s.codec with fb := encodeHeader s.env.suite s.codec.corr s.codec.type s.codec.len s.codec.iv }
    unwritten := l }

/-- R93: DEC_HDR, on a frame with the marker and on one without. -/
def Obligations.DecHdrResult : Prop :=
  ∀ s : State, s.running = none → launchReady .decHdr s = true →
    (frameMarker s.codec.fb = 0xFFFFFFFFFFFFFFFF → ∃ l, exec .decHdr s = .next
      (let k := decide (s.env.suite.ck16 (frameBody s.codec.fb) = frameCksum s.codec.fb)
       { s with
         outcome := .ok
         flags := { s.flags with markerOk := true, cksumOk := k, hdrValid := k }
         codec := { s.codec with
           corr := frameCorr s.codec.fb
           type := frameType s.codec.fb
           len := frameLen s.codec.fb
           iv := frameIv s.codec.fb }
         unwritten := l })) ∧
    (frameMarker s.codec.fb ≠ 0xFFFFFFFFFFFFFFFF → exec .decHdr s = .next { s with
      outcome := .ok
      flags := { s.flags with markerOk := false, cksumOk := false, hdrValid := false } })

/-- R101: ENC_MSG, under `DEST_KEY` and `DEST_IV`. -/
def Obligations.EncMsgResult : Prop :=
  ∀ s : State, s.running = none → launchReady .encMsg s = true → ∃ l, exec .encMsg s = .next { s with
    outcome := .ok
    codec := { s.codec with fb := encodeMessage s.env.suite s.codec.pb s.conf.destKey s.conf.destIv }
    unwritten := l }

/-- R103: DEC_MSG, under `LOCAL_KEY` and `F_IV`; PB is written whether or not the check passes. -/
def Obligations.DecMsgResult : Prop :=
  ∀ s : State, s.running = none → launchReady .decMsg s = true → ∃ l,
    exec .decMsg s = .next
      (let b := s.env.suite.cbcDec s.codec.fb s.conf.localKey s.codec.iv
       { s with
         outcome := .ok
         flags := { s.flags with msgValid := decide (s.env.suite.ck16 (frameBody b) = frameCksum b) }
         codec := { s.codec with pb := frameBody b }
         unwritten := l })

/-- R43 (20_memory.md section 2; what `exec` of a command means while another runs is the model's reading, assumption
log 10): nothing changes. -/
def Obligations.CommandIgnoredWhileAnotherRuns : Prop :=
  ∀ (s : State) (c d : Cmd), s.running = some d → c ≠ d → exec c.instr s = .next s

/-! ### SEND -/

/-- R111: T0. -/
def Obligations.SendAcceptance : Prop :=
  ∀ s : State, s.running = none → launchReady .send s = true →
    exec .send s = .next { s with
      running := some .send
      outcome := .none
      txState := .ready }

/-- R112: T1, the draw and the session, every drawn pair, under R163's premise. -/
def Obligations.SendDrawsItsSession : Prop :=
  ∀ (s : State) (c : CorrId) (v : Iv) (rest : List (CorrId × Iv)),
    s.running = some .send → launchReady .send s = true →
    s.txState = .ready → s.sess.valid = false → s.env.nonces = (c, v) :: rest →
    exec .send s = .next { s with sess := ⟨true, .initiator, c, v⟩, env := { s.env with nonces := rest } }

/-- R113: T2, the header frame, on either answer of Transport, under R163's premise. -/
def Obligations.SendHeaderFrame : Prop :=
  ∀ (s : State) (a : SendAnswer) (rest : List SendAnswer),
    s.running = some .send → launchReady .send s = true →
    s.txState = .ready → s.sess.valid = true → s.env.sendAnswers = a :: rest →
    let f := encodeHeader s.env.suite s.sess.corr s.tx.type s.tx.len s.sess.iv
    let e := { s.env with sendAnswers := rest, sent := s.env.sent ++ [⟨s.conf.destAddr, f, a⟩] }
    (a = .ok → exec .send s = .next { s with txState := .headerSent, stage := { s.stage with txf := f }, env := e }) ∧
    (a = .fail → exec .send s = .next { s with
      running := none
      outcome := .transportFailure
      sess := ⟨false, .initiator, 0, 0⟩
      stage := { s.stage with txf := f, rxhType := 0, rxhLen := 0 }
      env := e })

/-- R114: T3, the message frame, under the session IV, on either answer of Transport, under R163's premise. -/
def Obligations.SendMessageFrame : Prop :=
  ∀ (s : State) (a : SendAnswer) (rest : List SendAnswer),
    s.running = some .send → launchReady .send s = true → s.txState = .headerSent → s.env.sendAnswers = a :: rest →
    let f := encodeMessage s.env.suite s.tx.payload s.conf.destKey s.sess.iv
    let e := { s.env with sendAnswers := rest, sent := s.env.sent ++ [⟨s.conf.destAddr, f, a⟩] }
    (a = .ok → exec .send s = .next { s with txState := .messageSent, stage := { s.stage with txf := f }, env := e }) ∧
    (a = .fail → exec .send s = .next { s with
      running := none
      outcome := .transportFailure
      sess := ⟨false, .initiator, 0, 0⟩
      stage := { s.stage with txf := f, rxhType := 0, rxhLen := 0 }
      env := e })

/-- R115: T4, completion, under R163's premise. -/
def Obligations.SendCompletion : Prop :=
  ∀ s : State, s.running = some .send → launchReady .send s = true → s.txState = .messageSent →
    exec .send s = .next { s with
      running := none
      outcome := .ok
      txState := .complete
      sess := ⟨false, .initiator, 0, 0⟩
      stage := { s.stage with rxhType := 0, rxhLen := 0 } }

/-- R116 (42_send.md): SEND from its CMD write to `COMPLETE` is five steps when both sends answer `ok`: two frames leave,
header then message, both to `DEST_ADDR`, and no session remains. -/
def Obligations.SendRunsToComplete : Prop :=
  ∀ (s : State) (c : CorrId) (v : Iv) (ns : List (CorrId × Iv)) (as : List SendAnswer),
    inv s = true → s.running = none → launchReady .send s = true →
    s.env.inputs = [.write 0x01 0x05] → s.env.nonces = (c, v) :: ns →
    s.env.sendAnswers = .ok :: .ok :: as →
    let h := encodeHeader s.env.suite c s.tx.type s.tx.len v
    let m := encodeMessage s.env.suite s.tx.payload s.conf.destKey v
    core.run 5 s = .next { s with
      outcome := .ok
      txState := .complete
      sess := ⟨false, .initiator, 0, 0⟩
      stage := { s.stage with txf := m, rxhType := 0, rxhLen := 0 }
      env := { s.env with
        inputs := []
        nonces := ns
        sendAnswers := as
        sent := s.env.sent ++ [⟨s.conf.destAddr, h, .ok⟩, ⟨s.conf.destAddr, m, .ok⟩] } }

/-- R148, R116 (42_send.md, 60_exceptions.md section 1): a failing send ends SEND with `TRANSPORT_FAILURE` and no session;
`TX_STATE` tells which frame failed, and after a failing header no message frame is handed over. -/
def Obligations.SendFailureTellsWhichFrame : Prop :=
  ∀ (s : State) (c : CorrId) (v : Iv) (ns : List (CorrId × Iv)) (as : List SendAnswer),
    inv s = true → s.running = none → launchReady .send s = true →
    s.env.inputs = [.write 0x01 0x05] → s.env.nonces = (c, v) :: ns →
    let h := encodeHeader s.env.suite c s.tx.type s.tx.len v
    let m := encodeMessage s.env.suite s.tx.payload s.conf.destKey v
    (s.env.sendAnswers = .fail :: as → ∃ t, core.run 3 s = .next t ∧ t.running = none ∧
      t.outcome = .transportFailure ∧ t.txState = .ready ∧ t.sess = ⟨false, .initiator, 0, 0⟩ ∧
      t.env.sent = s.env.sent ++ [⟨s.conf.destAddr, h, .fail⟩]) ∧
    (s.env.sendAnswers = .ok :: .fail :: as → ∃ t, core.run 4 s = .next t ∧ t.running = none ∧
      t.outcome = .transportFailure ∧ t.txState = .headerSent ∧ t.sess = ⟨false, .initiator, 0, 0⟩ ∧
      t.env.sent = s.env.sent ++ [⟨s.conf.destAddr, h, .ok⟩, ⟨s.conf.destAddr, m, .fail⟩])

/-! ### RECV and the frames it holds -/

/-- R121: V0. -/
def Obligations.RecvAcceptance : Prop :=
  ∀ s : State, s.running = none → launchReady .recv s = true → exec .recv s = .next { s with
    running := some .recv
    outcome := .none
    rxState := .idle
    rx := ⟨0, 0, 0, 0⟩
    rxTmoCnt := 0 }

/-- R122: V1, the idle poll, on either answer, under R163's premise. -/
def Obligations.RecvIdlePoll : Prop :=
  ∀ (s : State) (a : Option Frame) (rest : List (Option Frame)),
    s.running = some .recv → launchReady .recv s = true → s.rxState = .idle → s.env.pollAnswers = a :: rest →
    let e := { s.env with pollAnswers := rest }
    (a = none → exec .recv s = .next { s with running := none, outcome := .noMessage, env := e }) ∧
    (∀ f, a = some f → exec .recv s = .next { s with
      rxState := .awaitingHeader, stage := { s.stage with rxf := f }, env := e })

/-- R123, R125 (43_receive.md): V2 on a frame with the marker, under R163's premise: the header state if its checksum verifies, else
`INTEGRITY_HEADER`.  That `exec` judges its operand is assumption log 11; that RXF takes it and keeps it, log 14. -/
def Obligations.HeaderFrameIsJudged : Prop :=
  ∀ (s : State) (c : CorrId) (t l : Byte) (v : Iv) (k : Cksum),
    s.running = some .recv → launchReady .recv s = true → s.rxState = .awaitingHeader →
    let f := headerBits c t l v k
    (k = s.env.suite.ck16 (headerBody c t l v) →
      exec (.headerFrame c t l v k) s = .next { s with rxState := .headerValid, stage := { s.stage with rxf := f } }) ∧
    (k ≠ s.env.suite.ck16 (headerBody c t l v) →
      exec (.headerFrame c t l v k) s = .next { s with
        running := none
        outcome := .integrityHeader
        rxState := .rejected
        sess := ⟨false, .initiator, 0, 0⟩
        stage := { s.stage with rxf := f, rxhType := 0, rxhLen := 0 } })

/-- R124 (43_receive.md): V2 on a frame without the marker, under R163's premise, counts it and reports `NO_MESSAGE`; that RXF keeps the frame is
the model's choice (assumption log 14).  On a message frame that happens to begin with the marker it is the header test:
R73's own inference and 90_conflicts.md C8, read onto `exec` by assumption log 11. -/
def Obligations.MalformedFrameIsCounted : Prop :=
  ∀ (s : State) (x y : BitVec 128),
    s.running = some .recv → launchReady .recv s = true → s.rxState = .awaitingHeader →
    (x.extractLsb' 64 64 ≠ 0xFFFFFFFFFFFFFFFF → exec (.messageFrame x y) s = .next { s with
      running := none
      outcome := .noMessage
      rxState := .idle
      malformedCnt := s.malformedCnt + 1
      stage := { s.stage with rxf := messageBits x y } }) ∧
    (x.extractLsb' 64 64 = 0xFFFFFFFFFFFFFFFF →
      exec (.messageFrame x y) s = exec (asHeader (messageBits x y)) s)

/-- R126 (43_receive.md): V3, the session is made from the header held, under R163's premise.  That V3 takes the fields from
RXF, where R123 hands them on as values, is assumption log 11. -/
def Obligations.RecvOpensItsSession : Prop :=
  ∀ s : State, s.running = some .recv → launchReady .recv s = true → s.rxState = .headerValid →
    let f := s.stage.rxf
    exec .recv s = .next { s with
      sess := ⟨true, .responder, frameCorr f, frameIv f⟩
      stage := { s.stage with rxhType := frameType f, rxhLen := frameLen f, rxHeld := false }
      rxTmoCnt := s.conf.rxTimeout
      rxState := .awaitingMessage }

/-- R127: V4, one round of the bounded wait, under R163's premise: the counter is tested before the poll. -/
def Obligations.RecvBoundedWait : Prop :=
  ∀ (s : State), s.running = some .recv → launchReady .recv s = true →
    s.rxState = .awaitingMessage → s.stage.rxHeld = false →
    (s.rxTmoCnt = 0 → exec .recv s = .next { s with
      running := none
      outcome := .timeout
      rxState := .rejected
      sess := ⟨false, .initiator, 0, 0⟩
      stage := { s.stage with rxhType := 0, rxhLen := 0 } }) ∧
    (∀ rest, s.rxTmoCnt ≠ 0 → s.env.pollAnswers = none :: rest → exec .recv s = .next { s with
      rxTmoCnt := s.rxTmoCnt - 1
      env := { s.env with pollAnswers := rest } }) ∧
    (∀ f rest, s.rxTmoCnt ≠ 0 → s.env.pollAnswers = some f :: rest → exec .recv s = .next { s with
      stage := { s.stage with rxf := f, rxHeld := true }
      env := { s.env with pollAnswers := rest } })

/-- R128, R129 (43_receive.md): V5, decode under `LOCAL_KEY` and the session IV, then delivery or `INTEGRITY_MESSAGE`.  That
`exec` judges its operand is assumption log 11; that RXF takes it and keeps it, log 14.  All under R163's premise. -/
def Obligations.MessageFrameIsJudged : Prop :=
  ∀ (s : State) (x y : BitVec 128),
    s.running = some .recv → launchReady .recv s = true → s.rxState = .awaitingMessage → s.stage.rxHeld = true →
    let f := messageBits x y
    let b := s.env.suite.cbcDec f s.conf.localKey s.sess.iv
    let g := { s.stage with rxf := f, rxHeld := false, rxhType := 0, rxhLen := 0 }
    (s.env.suite.ck16 (frameBody b) = frameCksum b → exec (.messageFrame x y) s = .next { s with
      running := none
      outcome := .ok
      rxState := .delivered
      rx := ⟨frameBody b, s.sess.corr, s.stage.rxhType, s.stage.rxhLen⟩
      sess := ⟨false, .initiator, 0, 0⟩
      stage := g }) ∧
    (s.env.suite.ck16 (frameBody b) ≠ frameCksum b → exec (.messageFrame x y) s = .next { s with
      running := none
      outcome := .integrityMessage
      rxState := .rejected
      sess := ⟨false, .initiator, 0, 0⟩
      stage := g })

/-- R131 (43_receive.md): where a message is awaited a header frame is taken as a message, whatever its bytes; its block
failing the checksum, the session is discarded with `INTEGRITY_MESSAGE`.  That `exec` judges its operand is assumption log
11; that RXF takes it and keeps it, log 14; the outcome has R163's premise. -/
def Obligations.SecondHeaderIsTakenAsMessage : Prop :=
  ∀ (s : State) (c : CorrId) (t l : Byte) (v : Iv) (k : Cksum),
    s.running = some .recv → s.rxState = .awaitingMessage → s.stage.rxHeld = true →
    let f := headerBits c t l v k
    let b := s.env.suite.cbcDec f s.conf.localKey s.sess.iv
    exec (.headerFrame c t l v k) s = exec (asMessage f) s ∧
    (launchReady .recv s = true → s.env.suite.ck16 (frameBody b) ≠ frameCksum b → exec (.headerFrame c t l v k) s = .next { s with
      running := none
      outcome := .integrityMessage
      rxState := .rejected
      sess := ⟨false, .initiator, 0, 0⟩
      stage := { s.stage with rxf := f, rxHeld := false, rxhType := 0, rxhLen := 0 } })

/-- R149 (60_exceptions.md section 3; the model's reading, assumption log 11): a frame that no RECV holds for judging does
nothing to the block. -/
def Obligations.UnheldFrameChangesNothing : Prop :=
  ∀ (s : State) (i : Instr), i.wellFormed .firstFrame = true ∨ i.wellFormed .nextFrame = true →
    (s.running ≠ some .recv ∨ (s.rxState ≠ .awaitingHeader ∧ (s.rxState = .awaitingMessage → s.stage.rxHeld = false))) →
    exec i s = .next s

/-- R50 (20_memory.md section 4; assumption log 5): while a collaborator has not answered, the command waits and stays
running. -/
def Obligations.SequencerWaitsForAnAnswer : Prop :=
  ∀ s : State,
    (s.running = some .send → s.txState = .ready → s.sess.valid = false → s.env.nonces = [] → exec .send s = .next s) ∧
    (s.running = some .send → (s.txState = .ready ∧ s.sess.valid = true) ∨ s.txState = .headerSent →
      s.env.sendAnswers = [] → exec .send s = .next s) ∧
    (s.running = some .recv → s.rxState = .idle ∨ (s.rxState = .awaitingMessage ∧ s.stage.rxHeld = false ∧ s.rxTmoCnt ≠ 0) →
      s.env.pollAnswers = [] → exec .recv s = .next s)

/-- The model's own stop (assumption log 9): a sequencer position for which R116 and R130 give no transition. -/
def Obligations.NoTransitionIsAFault : Prop :=
  ∀ s : State,
    (s.running = some .send → s.txState = .complete → exec .send s = .fault .noTransition) ∧
    (s.running = some .recv → s.rxState = .delivered ∨ s.rxState = .rejected → exec .recv s = .fault .noTransition)

/-- R147, R127 (43_receive.md): after a valid header, a wait whose every poll answers `None` ends in `TIMEOUT` after exactly
as many polls as the counter holds, with no poll more, under R163's premise. -/
def Obligations.TimeoutAfterExactlyTheBudget : Prop :=
  ∀ (s : State) (rest : List (Option Frame)),
    s.running = some .recv → launchReady .recv s = true →
    s.rxState = .awaitingMessage → s.stage.rxHeld = false → s.env.inputs = [] →
    s.env.pollAnswers = List.replicate s.rxTmoCnt.toNat none ++ rest →
    core.run (s.rxTmoCnt.toNat + 1) s = .next { s with
      running := none
      outcome := .timeout
      rxState := .rejected
      rxTmoCnt := 0
      sess := ⟨false, .initiator, 0, 0⟩
      stage := { s.stage with rxhType := 0, rxhLen := 0 }
      env := { s.env with pollAnswers := rest } }

/-- S7 of 95_test_vectors.md, 42_send.md and 43_receive.md: device A's SEND and device B's RECV, over a Transport that
faithfully delivers A's two frames in order: B delivers A's payload, with the header fields, whatever cipher and checksum
the two share and whatever pair was drawn. -/
def Obligations.EndToEndDelivery : Prop :=
  ∀ (a b a' : State) (c : CorrId) (v : Iv) (f g : Frame),
    inv a = true → a.running = none → launchReady .send a = true →
    a.env.inputs = [.write 0x01 0x05] → a.env.nonces = [(c, v)] → a.env.sendAnswers = [.ok, .ok] →
    core.run 5 a = .next a' → a'.env.sent = a.env.sent ++ [⟨a.conf.destAddr, f, .ok⟩, ⟨a.conf.destAddr, g, .ok⟩] →
    b.running = none → launchReady .recv b = true →
    b.env.inputs = [.write 0x01 0x06] → b.env.pollAnswers = [some f, some g] →
    b.env.suite = a.env.suite → b.conf.localKey = a.conf.destKey → b.conf.rxTimeout ≠ 0 →
    ∃ b', core.run 6 b = .next b' ∧ b'.running = none ∧ b'.outcome = .ok ∧ b'.rxState = .delivered ∧
      b'.rx = ⟨a.tx.payload, c, a.tx.type, a.tx.len⟩ ∧ b'.sess = ⟨false, .initiator, 0, 0⟩ ∧
      b'.rxTmoCnt = b.conf.rxTimeout ∧ b'.malformedCnt = b.malformedCnt

/-- R116 (42_send.md), R50: SEND ends within the four micro-steps after its acceptance, with `OK` or `TRANSPORT_FAILURE`,
wherever it stands, if the environment answers; under R163's premise. -/
def Obligations.SendTerminates : Prop :=
  ∀ s : State, inv s = true → s.running = some .send → launchReady .send s = true → s.env.inputs = [] → s.env.nonces ≠ [] →
    2 ≤ s.env.sendAnswers.length →
    ∃ k ≤ 4, ∃ t, core.run k s = .next t ∧ t.running = none ∧ (t.outcome = .ok ∨ t.outcome = .transportFailure)

/-- R130 (43_receive.md), R50: RECV ends within `4 + RX_TIMEOUT` micro-steps after its acceptance, wherever it stands, if
Transport answers; under R163's premise, since the bound is the `RX_TIMEOUT` of RECV's row. -/
def Obligations.RecvTerminates : Prop :=
  ∀ s : State, inv s = true → s.running = some .recv → launchReady .recv s = true → s.env.inputs = [] →
    s.conf.rxTimeout.toNat + 1 ≤ s.env.pollAnswers.length →
    ∃ k ≤ 4 + s.conf.rxTimeout.toNat, ∃ t, core.run k s = .next t ∧ t.running = none ∧ t.outcome ≠ .none

/-! ### Rules of the whole machine -/

/-- The invariant holds after reset. -/
def Obligations.ResetSatisfiesTheInvariant : Prop := inv State.reset = true

/-- R24, R116, R130, R30, R22, R140, R163: from every state that meets it, every step keeps the invariant: a session exists
only while its command runs, in its command's role; no machine stays in a passing state; the flags agree; the result
registers read zero unless a RECV delivered; a running command was launched with its registers written, or its launch is
the last one recorded (assumption log 2). -/
def Obligations.EveryStepKeepsTheInvariant : Prop :=
  ∀ s t : State, inv s = true → step s = .next t → inv t = true

/-- 93_implementation_defined.md, end of part 1: nothing in the block is stuck; from a state that meets the invariant every
step gives a next state, whatever the host and the environment do.  That a micro-step whose answer has not come has a next
state (the rule says "provided the environment answers") is assumption log 5, and that a launch R163 calls a fault has one,
assumption log 2. -/
def Obligations.NothingIsStuck : Prop := ∀ s : State, inv s = true → ∃ t, step s = .next t

/-- R11 (10_state.md section 1), R19: no command writes a configuration or a send operand register. -/
def Obligations.NoCommandWritesConfiguration : Prop :=
  ∀ (i : Instr) (s t : State), exec i s = .next t → t.conf = s.conf ∧ t.tx = s.tx

/-- R20, R21, R22, R27, R28, R30 (10_state.md): each command keeps what another command owns.  The codec commands and SEND
keep everything of RECV's, and RECV and the frames everything of SEND's and the codec's. -/
def Obligations.CommandsKeepEachOthersState : Prop :=
  ∀ (i : Instr) (s t : State), exec i s = .next t →
    (i = .encHdr ∨ i = .decHdr ∨ i = .encMsg ∨ i = .decMsg ∨ i = .send →
      t.rxState = s.rxState ∧ t.rx = s.rx ∧ t.rxTmoCnt = s.rxTmoCnt ∧ t.malformedCnt = s.malformedCnt ∧
      t.stage.rxf = s.stage.rxf) ∧
    (i = .encHdr ∨ i = .decHdr ∨ i = .encMsg ∨ i = .decMsg → t.txState = s.txState ∧ t.sess = s.sess ∧ t.stage = s.stage ∧
      t.env = s.env) ∧
    ((∃ c ty l v k, i = .headerFrame c ty l v k) ∨ (∃ x y, i = .messageFrame x y) ∨ i = .recv →
      t.txState = s.txState ∧ t.codec = s.codec ∧ t.flags = s.flags ∧ t.stage.txf = s.stage.txf ∧
      t.unwritten = s.unwritten ∧ t.env.sent = s.env.sent ∧ t.env.nonces = s.env.nonces) ∧
    (i = .send → t.codec = s.codec ∧ t.flags = s.flags ∧ t.unwritten = s.unwritten ∧
      t.env.pollAnswers = s.env.pollAnswers) ∧
    (i = .encHdr ∨ i = .encMsg → t.flags = s.flags)

/-- R15, R12 (10_state.md section 2), R163 (70_reset_and_hazards.md section 2): `LOCAL_IV` and `LOCAL_ADDR` are read by no
command, and `DEST_IV` by ENC_MSG alone: running a command with other values there gives the same but for those values.
And no micro-step of a command whose launch registers are all written (R163's premise, R162's table) rests on what an
unwritten register holds: with another value there it gives the same, the register carrying that value if it is still
unwritten. -/
def Obligations.UnreadConfigurationHasNoInfluence : Prop :=
  (∀ (i : Instr) (s : State) (a : Addr) (v w : Iv), (i = .encMsg → w = s.conf.destIv) →
    exec i { s with conf := { s.conf with localAddr := a, localIv := v, destIv := w } } =
      match exec i s with
      | .next t => .next { t with conf := { t.conf with localAddr := a, localIv := v, destIv := w } }
      | .fault r => .fault r
      | .refused r => .refused r) ∧
  (∀ (i : Instr) (s : State) (r : Reg) (v : BitVec 256), launchReady i s = true → r ∈ s.unwritten →
    exec i (s.putReg r v) =
      match exec i s with
      | .next t => .next (if r ∈ t.unwritten then t.putReg r v else t)
      | .fault e => .fault e
      | .refused e => .refused e)

/-- R25, R126 (10_state.md section 6, 43_receive.md): the IV of a received header enters the session only if that header
validated, and the session is that header's; an open session is never changed, only discarded. -/
def Obligations.IvAdoptedOnlyFromAValidHeader : Prop :=
  ∀ s t : State, inv s = true → step s = .next t → t.sess.valid = true →
    (s.sess.valid = true → t.sess = s.sess) ∧
    (s.sess.valid = false → t.sess.role = .responder →
      decodeHeader s.env.suite s.stage.rxf = some (headerFields s.stage.rxf, true) ∧
      t.sess.iv = frameIv s.stage.rxf ∧ t.sess.corr = frameCorr s.stage.rxf)

/-- R22, R128, R129 (10_state.md section 3): the result registers change only to zero or, together with `DELIVERED` and
`OK` and under R163's premise, to the payload of a held frame that decrypted to a block with a good checksum. -/
def Obligations.PayloadDeliveredOnlyWhenValid : Prop :=
  ∀ s t : State, step s = .next t → t.rx ≠ s.rx →
    t.rx = ⟨0, 0, 0, 0⟩ ∨
    (s.running = some .recv ∧ s.rxState = .awaitingMessage ∧ s.stage.rxHeld = true ∧ t.rxState = .delivered ∧
      t.outcome = .ok ∧ t.running = none ∧
      (launchReady .recv s = true →
        decodeMessage s.env.suite s.stage.rxf s.conf.localKey s.sess.iv = (t.rx.payload, true)))

/-- R27 (10_state.md section 7): `MALFORMED_CNT` moves by one, modulo 2^32, exactly where RECV drops a frame without the
marker, and nothing else moves it but reset. -/
def Obligations.MalformedCountMovesOnlyOnAMarkerMismatch : Prop :=
  ∀ s t : State, step s = .next t →
    t.malformedCnt = s.malformedCnt ∨
    (t.malformedCnt = s.malformedCnt + 1 ∧ s.running = some .recv ∧ s.rxState = .awaitingHeader ∧
      frameMarker s.stage.rxf ≠ 0xFFFFFFFFFFFFFFFF ∧ t.outcome = .noMessage ∧ t.running = none) ∨
    (t.malformedCnt = 0 ∧ s.env.inputs.head? = some .reset)
end

