-- ==== Sys2Proof/Laws/Cipher.lean ====
section
/-! SUPPORT. The one law of the cipher pair (R52), for every instantiation: decrypting what was encrypted under the
same key and IV gives the plaintext back. -/

namespace Sys2Proof.Machine

theorem getLsbD_joinBlocks (x y : BitVec 128) (i : Nat) :
    (joinBlocks x y).getLsbD i = if i < 128 then y.getLsbD i else x.getLsbD (i - 128) :=
  BitVec.getLsbD_append

@[simp] theorem block0_joinBlocks (x y : BitVec 128) : block0 (joinBlocks x y) = x :=
  BitVec.eq_of_getLsbD_eq fun i hi => by simp [block0, getLsbD_joinBlocks, hi]

@[simp] theorem block1_joinBlocks (x y : BitVec 128) : block1 (joinBlocks x y) = y :=
  BitVec.eq_of_getLsbD_eq fun i hi => by simp [block1, getLsbD_joinBlocks, hi]

@[simp] theorem joinBlocks_blocks (p : Frame) : joinBlocks (block0 p) (block1 p) = p :=
  BitVec.eq_of_getLsbD_eq fun i hi => by
    rw [getLsbD_joinBlocks]
    split
    · simp [block1, *]
    · simp [block0, show i - 128 < 128 by omega, show 128 + (i - 128) = i by omega]

theorem cbcDecWith_cbcEncWith {e d : BitVec 128 → BitVec 128} (h : ∀ b, d (e b) = b) (p : Frame) (v : Iv) :
    cbcDecWith d (cbcEncWith e p v) v = p := by
  simp [cbcDecWith, cbcEncWith, h]

theorem toyBlock_toyBlock (k : Key) (b : BitVec 128) : toyBlock k (toyBlock k b) = b := by
  simp [toyBlock]

/-! ### AES: each layer undone -/

theorem invSbox_sbox (x : Byte) : invSbox (sbox x) = x := by
  revert x; decide +kernel

theorem xtime_xor (x y : Byte) : xtime (x ^^^ y) = xtime x ^^^ xtime y := by
  apply BitVec.eq_of_getLsbD_eq
  intro i hi
  unfold xtime
  cases hx : x.msb <;> cases hy : y.msb <;> simp [hx, hy, BitVec.msb_xor, BitVec.shiftLeft_xor_distrib] <;>
    grind

/-- Addition in the AES field, reordered. -/
theorem xor_left_comm (x y z : Byte) : x ^^^ (y ^^^ z) = y ^^^ (x ^^^ z) := by
  rw [← BitVec.xor_assoc, BitVec.xor_comm x y, BitVec.xor_assoc]

/-- Addition in the AES field cancels. -/
theorem xor_cancel_left (x y : Byte) : x ^^^ (x ^^^ y) = y := by
  rw [← BitVec.xor_assoc, BitVec.xor_self, BitVec.zero_xor]

/-- The column matrix of MixColumns times that of its inverse is the identity. -/
theorem invMixColumn_mixColumn (q : Quad Byte) : invMixColumn (mixColumn q) = q := by
  obtain ⟨a, b, c, d⟩ := q
  simp only [invMixColumn, mixColumn, xtime_xor, Quad.mk.injEq]
  generalize xtime (xtime (xtime (xtime a))) = a4, xtime (xtime (xtime (xtime b))) = b4,
    xtime (xtime (xtime (xtime c))) = c4, xtime (xtime (xtime (xtime d))) = d4
  generalize xtime (xtime (xtime a)) = a3, xtime (xtime (xtime b)) = b3, xtime (xtime (xtime c)) = c3,
    xtime (xtime (xtime d)) = d3
  generalize xtime (xtime a) = a2, xtime (xtime b) = b2, xtime (xtime c) = c2, xtime (xtime d) = d2
  generalize xtime a = a1, xtime b = b1, xtime c = c1, xtime d = d1
  simp only [BitVec.xor_assoc]
  refine ⟨?_, ?_, ?_, ?_⟩ <;>
    simp only [BitVec.xor_comm, xor_left_comm, xor_cancel_left, BitVec.xor_self, BitVec.xor_zero]

theorem addColumn_addColumn (p k : Quad Byte) : addColumn (addColumn p k) k = p := by
  obtain ⟨a, b, c, d⟩ := p
  simp [addColumn, Quad.zip]

theorem addKey_addKey (p k : AesBlock) : addKey (addKey p k) k = p := by
  obtain ⟨a, b, c, d⟩ := p
  simp [addKey, Quad.zip, addColumn_addColumn]

theorem invSubShift_subShift (b : AesBlock) : invSubShift (subShift b) = b := by
  simp [invSubShift, subShift, shiftRows, invShiftRows, Quad.map, invSbox_sbox]

theorem map_invMixColumn (b : AesBlock) : (b.map mixColumn).map invMixColumn = b := by
  simp [Quad.map, invMixColumn_mixColumn]

theorem aesInvRounds_aesRounds (ks : List AesBlock) (b : AesBlock) : aesInvRounds ks (aesRounds ks b) = b := by
  induction ks generalizing b with
  | nil => rfl
  | cons k ks ih =>
    cases ks with
    | nil => simp [aesRounds, aesInvRounds, addKey_addKey, invSubShift_subShift]
    | cons k' ks =>
      rw [aesRounds, aesInvRounds, ih, addKey_addKey, map_invMixColumn, invSubShift_subShift]

/-- One bit of four words laid end to end. -/
theorem getLsbD_append4 {n : Nat} (a b c d : BitVec n) (i : Nat) : (a ++ b ++ c ++ d).getLsbD i =
    if i < n then d.getLsbD i else if i - n < n then c.getLsbD (i - n)
    else if i - n - n < n then b.getLsbD (i - n - n) else a.getLsbD (i - n - n - n) := by
  simp only [BitVec.getLsbD_append]

theorem getLsbD_columnBits (q : Quad Byte) (i : Nat) : (columnBits q).getLsbD i =
    if i < 8 then q.d.getLsbD i else if i - 8 < 8 then q.c.getLsbD (i - 8)
    else if i - 8 - 8 < 8 then q.b.getLsbD (i - 8 - 8) else q.a.getLsbD (i - 8 - 8 - 8) :=
  getLsbD_append4 _ _ _ _ i

theorem getLsbD_aesToBits (q : AesBlock) (i : Nat) : (aesToBits q).getLsbD i =
    if i < 32 then (columnBits q.d).getLsbD i else if i - 32 < 32 then (columnBits q.c).getLsbD (i - 32)
    else if i - 32 - 32 < 32 then (columnBits q.b).getLsbD (i - 32 - 32)
    else (columnBits q.a).getLsbD (i - 32 - 32 - 32) :=
  getLsbD_append4 _ _ _ _ i

theorem columnOf_columnBits (q : Quad Byte) : columnOf (columnBits q) = q := by
  obtain ⟨a, b, c, d⟩ := q
  simp only [columnOf, Quad.mk.injEq]
  refine ⟨?_, ?_, ?_, ?_⟩ <;> apply BitVec.eq_of_getLsbD_eq <;> intro i hi <;>
    simp only [BitVec.getLsbD_extractLsb', getLsbD_columnBits] <;> grind

theorem columnBits_columnOf (x : BitVec 32) : columnBits (columnOf x) = x := by
  apply BitVec.eq_of_getLsbD_eq
  intro i hi
  simp only [getLsbD_columnBits, columnOf, BitVec.getLsbD_extractLsb']
  grind

theorem aesOfBits_aesToBits (q : AesBlock) : aesOfBits (aesToBits q) = q := by
  obtain ⟨a, b, c, d⟩ := q
  have h : ∀ (j : Nat) (c' : Quad Byte), (∀ i < 32, (aesToBits ⟨a, b, c, d⟩).getLsbD (j + i) = (columnBits c').getLsbD i) →
      columnOf ((aesToBits ⟨a, b, c, d⟩).extractLsb' j 32) = c' := by
    intro j c' hj
    rw [show (aesToBits ⟨a, b, c, d⟩).extractLsb' j 32 = columnBits c' from
      BitVec.eq_of_getLsbD_eq fun i hi => by simp [hi, hj i hi], columnOf_columnBits]
  simp only [aesOfBits, Quad.mk.injEq]
  refine ⟨h _ _ ?_, h _ _ ?_, h _ _ ?_, h _ _ ?_⟩ <;> intro i hi <;> simp only [getLsbD_aesToBits] <;> grind

theorem aesToBits_aesOfBits (x : BitVec 128) : aesToBits (aesOfBits x) = x := by
  apply BitVec.eq_of_getLsbD_eq
  intro i hi
  simp only [getLsbD_aesToBits, aesOfBits, columnBits_columnOf, BitVec.getLsbD_extractLsb']
  grind

theorem aesDec_aesEnc (k : Key) (b : BitVec 128) : aesDec k (aesEnc k b) = b := by
  simp only [aesDec, aesEnc, aesOfBits_aesToBits, aesInvRounds_aesRounds, addKey_addKey, aesToBits_aesOfBits]

end Sys2Proof.Machine

namespace Sys2Proof

/-- R52's law, which D10 makes explicit. -/
theorem Suite.cbcDec_cbcEnc (u : Suite) (p : Frame) (k : Key) (v : Iv) : u.cbcDec (u.cbcEnc p k v) k v = p := by
  cases u with
  | given => exact Equiv.symm_apply_apply _ _
  | toy => exact Machine.cbcDecWith_cbcEncWith (Machine.toyBlock_toyBlock k) p v
  | ref => exact Machine.cbcDecWith_cbcEncWith (Machine.aesDec_aesEnc k) p v

end Sys2Proof
end

