-- ==== Sys2Proof/Laws/Frames.lean ====
section
/-! SUPPORT. Frames and bytes: the slices of a frame undo its concatenation (R74), and a byte string of `n` bytes and
its integer (R6) are each other's inverse. -/

namespace Sys2Proof

/-! ### Bytes -/

theorem natToBytes_length (n v : Nat) : (natToBytes n v).length = n := by
  induction n generalizing v with
  | zero => rfl
  | succ n ih => simp [natToBytes, ih]

theorem ube_append_singleton (bs : List Byte) (b : Byte) : ube (bs ++ [b]) = ube bs * 256 + b.toNat := by
  simp [ube]

/-- `UBE` undoes the bytes of a value that fits. -/
theorem ube_natToBytes (n v : Nat) (h : v < 256 ^ n) : ube (natToBytes n v) = v := by
  induction n generalizing v with
  | zero => simp at h; subst h; rfl
  | succ n ih =>
    rw [natToBytes, ube_append_singleton, ih (v / 256) (by rw [pow_succ] at h; omega)]
    simp only [BitVec.toNat_ofNat]
    omega

/-- The integer of `n` bytes fits. -/
theorem ube_lt (bs : List Byte) : ube bs < 256 ^ bs.length := by
  induction bs using List.reverseRecOn with
  | nil => simp [ube]
  | append_singleton bs b ih =>
    rw [ube_append_singleton, List.length_append, List.length_singleton, pow_succ]
    have := b.isLt
    omega

/-- The bytes of the integer that `n` bytes are. -/
theorem natToBytes_ube (bs : List Byte) : natToBytes bs.length (ube bs) = bs := by
  induction bs using List.reverseRecOn with
  | nil => rfl
  | append_singleton bs b ih =>
    have := b.isLt
    rw [List.length_append, List.length_singleton, natToBytes, ube_append_singleton,
      show (ube bs * 256 + b.toNat) / 256 = ube bs by omega, ih]
    congr 2
    apply BitVec.eq_of_toNat_eq
    simp [b.isLt]

theorem toBytes_length (n : Nat) (v : BitVec (8 * n)) : (toBytes n v).length = n := natToBytes_length n _

/-- A frame's bytes are that frame's (R5). -/
theorem frameOfBytes_toBytes (f : Frame) : frameOfBytes (toBytes 32 f) = f := by
  have h : f.toNat < 256 ^ 32 := lt_of_lt_of_le f.isLt (by norm_num)
  rw [frameOfBytes, toBytes, ube_natToBytes 32 _ h]
  simp

/-- Thirty-two bytes are the bytes of their frame. -/
theorem toBytes_frameOfBytes (bs : List Byte) (h : bs.length = 32) : toBytes 32 (frameOfBytes bs) = bs := by
  have hlt : ube bs < 2 ^ 256 := lt_of_lt_of_le (ube_lt bs) (by rw [h]; norm_num)
  rw [toBytes, frameOfBytes, BitVec.toNat_ofNat, Nat.mod_eq_of_lt hlt]
  conv_lhs => rw [← h]
  exact natToBytes_ube bs

/-! ### Slices of a frame -/

theorem getLsbD_withCksum (b : Payload) (k : Cksum) (i : Nat) :
    (withCksum b k).getLsbD i = if i < 16 then k.getLsbD i else b.getLsbD (i - 16) :=
  BitVec.getLsbD_append

theorem getLsbD_headerBody (c : CorrId) (t l : Byte) (v : Iv) (i : Nat) : (headerBody c t l v).getLsbD i =
    if i < 128 then v.getLsbD i else if i - 128 < 8 then l.getLsbD (i - 128)
    else if i - 128 - 8 < 8 then t.getLsbD (i - 128 - 8)
    else if i - 128 - 8 - 8 < 32 then c.getLsbD (i - 128 - 8 - 8) else marker.getLsbD (i - 128 - 8 - 8 - 32) :=
  (BitVec.getLsbD_append (x := marker ++ c ++ t ++ l) (y := v)).trans <| by simp only [BitVec.getLsbD_append]

theorem getLsbD_messageBits (x y : BitVec 128) (i : Nat) :
    (messageBits x y).getLsbD i = if i < 128 then y.getLsbD i else x.getLsbD (i - 128) :=
  BitVec.getLsbD_append

@[simp] theorem frameBody_withCksum (b : Payload) (k : Cksum) : frameBody (withCksum b k) = b :=
  BitVec.eq_of_getLsbD_eq fun i hi => by simp [frameBody, getLsbD_withCksum, hi]

@[simp] theorem frameCksum_withCksum (b : Payload) (k : Cksum) : frameCksum (withCksum b k) = k :=
  BitVec.eq_of_getLsbD_eq fun i hi => by simp [frameCksum, getLsbD_withCksum, hi]

/-- A frame is its first 30 bytes and its last two. -/
@[simp] theorem withCksum_frame (f : Frame) : withCksum (frameBody f) (frameCksum f) = f :=
  BitVec.eq_of_getLsbD_eq fun i hi => by
    rw [getLsbD_withCksum]
    split
    · simp [frameCksum, *]
    · simp [frameBody, show i - 16 < 240 by omega, show 16 + (i - 16) = i by omega]

section
variable (c : CorrId) (t l : Byte) (v : Iv) (k : Cksum)

/-- A slice of a header's body, read from the frame. -/
theorem getLsbD_headerBits (i : Nat) : (headerBits c t l v k).getLsbD i =
    if i < 16 then k.getLsbD i else (headerBody c t l v).getLsbD (i - 16) :=
  getLsbD_withCksum _ _ i

@[simp] theorem frameMarker_headerBits : frameMarker (headerBits c t l v k) = marker :=
  BitVec.eq_of_getLsbD_eq fun i hi => by
    simp only [frameMarker, BitVec.getLsbD_extractLsb', getLsbD_headerBits, getLsbD_headerBody]; grind

@[simp] theorem frameCorr_headerBits : frameCorr (headerBits c t l v k) = c :=
  BitVec.eq_of_getLsbD_eq fun i hi => by
    simp only [frameCorr, BitVec.getLsbD_extractLsb', getLsbD_headerBits, getLsbD_headerBody]; grind

@[simp] theorem frameType_headerBits : frameType (headerBits c t l v k) = t :=
  BitVec.eq_of_getLsbD_eq fun i hi => by
    simp only [frameType, BitVec.getLsbD_extractLsb', getLsbD_headerBits, getLsbD_headerBody]; grind

@[simp] theorem frameLen_headerBits : frameLen (headerBits c t l v k) = l :=
  BitVec.eq_of_getLsbD_eq fun i hi => by
    simp only [frameLen, BitVec.getLsbD_extractLsb', getLsbD_headerBits, getLsbD_headerBody]; grind

@[simp] theorem frameIv_headerBits : frameIv (headerBits c t l v k) = v :=
  BitVec.eq_of_getLsbD_eq fun i hi => by
    simp only [frameIv, BitVec.getLsbD_extractLsb', getLsbD_headerBits, getLsbD_headerBody]; grind

@[simp] theorem frameCksum_headerBits : frameCksum (headerBits c t l v k) = k := frameCksum_withCksum _ _

@[simp] theorem frameBody_headerBits : frameBody (headerBits c t l v k) = headerBody c t l v := frameBody_withCksum _ _

@[simp] theorem hasMarker_headerBits : hasMarker (headerBits c t l v k) = true := by simp [hasMarker]

end

/-- A frame with the marker is the header frame of its fields (R71). -/
theorem headerBits_fields (f : Frame) (h : hasMarker f = true) :
    headerBits (frameCorr f) (frameType f) (frameLen f) (frameIv f) (frameCksum f) = f := by
  have hm : ∀ i < 64, f.getLsbD (192 + i) = marker.getLsbD i := by
    intro i hi
    have : frameMarker f = marker := by simpa [hasMarker] using h
    rw [← this]; simp [frameMarker, hi]
  apply BitVec.eq_of_getLsbD_eq
  intro i hi
  simp only [getLsbD_headerBits, getLsbD_headerBody, frameCorr, frameType, frameLen, frameIv, frameCksum,
    BitVec.getLsbD_extractLsb']
  repeat' split
  all_goals first
    | rw [← hm _ (by omega)]; exact congrArg f.getLsbD (by omega)
    | clear hm; simp only [*, decide_true, Bool.true_and]; exact congrArg f.getLsbD (by omega)

/-- A frame is the message frame of its two blocks (R72). -/
theorem messageBits_blocks (f : Frame) : messageBits (f.extractLsb' 128 128) (f.extractLsb' 0 128) = f :=
  BitVec.eq_of_getLsbD_eq fun i hi => by
    simp only [getLsbD_messageBits, BitVec.getLsbD_extractLsb']; grind

@[simp] theorem asMessage_messageBits (x y : BitVec 128) : asMessage (messageBits x y) = .messageFrame x y := by
  have hx : (messageBits x y).extractLsb' 128 128 = x := BitVec.eq_of_getLsbD_eq fun i hi => by
    simp only [getLsbD_messageBits, BitVec.getLsbD_extractLsb']; grind
  have hy : (messageBits x y).extractLsb' 0 128 = y := BitVec.eq_of_getLsbD_eq fun i hi => by
    simp only [getLsbD_messageBits, BitVec.getLsbD_extractLsb']; grind
  simp [asMessage, hx, hy]

@[simp] theorem frameMarker_messageBits (x y : BitVec 128) : frameMarker (messageBits x y) = x.extractLsb' 64 64 :=
  BitVec.eq_of_getLsbD_eq fun i hi => by
    simp only [frameMarker, getLsbD_messageBits, BitVec.getLsbD_extractLsb']; grind

end Sys2Proof

namespace Sys2Proof.Machine

/-- `appendChecksum` then `verifyChecksum` succeeds (R54). -/
@[simp] theorem verifyChecksum_appendChecksum (u : Suite) (b : Payload) : verifyChecksum u (appendChecksum u b) = true := by
  simp [verifyChecksum, appendChecksum]

@[simp] theorem frameBody_appendChecksum (u : Suite) (b : Payload) : frameBody (appendChecksum u b) = b := by
  simp [appendChecksum]

/-- An encoded header is the header frame with the checksum of its body (R90). -/
theorem encodeHeader_eq (u : Suite) (c : CorrId) (t l : Byte) (v : Iv) :
    encodeHeader u c t l v = headerBits c t l v (u.ck16 (headerBody c t l v)) := rfl

/-- What `DecodeHeader` can answer (R92). -/
theorem decodeHeader_cases (u : Suite) (f : Frame) :
    (hasMarker f = false ∧ decodeHeader u f = none) ∨
    (hasMarker f = true ∧ decodeHeader u f = some (headerFields f, verifyChecksum u f)) := by
  cases h : hasMarker f <;> simp [decodeHeader, h]

end Sys2Proof.Machine
end

