-- ==== Sys2Proof/Laws/State.lean ====
section
/-! SUPPORT. What each shared update of the state does to each field: the field's new value, or that it keeps its own. -/

namespace Sys2Proof.Machine

section
variable (s : State)

@[simp] theorem accept_running (c : Cmd) : (s.accept c).running = some c := rfl
@[simp] theorem accept_txState (c : Cmd) : (s.accept c).txState = s.txState := rfl
@[simp] theorem accept_rxState (c : Cmd) : (s.accept c).rxState = s.rxState := rfl
@[simp] theorem accept_sess (c : Cmd) : (s.accept c).sess = s.sess := rfl
@[simp] theorem accept_outcome (c : Cmd) : (s.accept c).outcome = .none := rfl
@[simp] theorem accept_flags (c : Cmd) : (s.accept c).flags = s.flags := rfl
@[simp] theorem accept_malformedCnt (c : Cmd) : (s.accept c).malformedCnt = s.malformedCnt := rfl
@[simp] theorem accept_rxTmoCnt (c : Cmd) : (s.accept c).rxTmoCnt = s.rxTmoCnt := rfl
@[simp] theorem accept_conf (c : Cmd) : (s.accept c).conf = s.conf := rfl
@[simp] theorem accept_codec (c : Cmd) : (s.accept c).codec = s.codec := rfl
@[simp] theorem accept_tx (c : Cmd) : (s.accept c).tx = s.tx := rfl
@[simp] theorem accept_rx (c : Cmd) : (s.accept c).rx = s.rx := rfl
@[simp] theorem accept_stage (c : Cmd) : (s.accept c).stage = s.stage := rfl
@[simp] theorem accept_unwritten (c : Cmd) : (s.accept c).unwritten = s.unwritten := rfl
@[simp] theorem accept_unreadyLaunches (c : Cmd) : (s.accept c).unreadyLaunches = s.unreadyLaunchesAfter c := rfl
@[simp] theorem accept_env (c : Cmd) : (s.accept c).env = s.env := rfl

@[simp] theorem complete_running (r : Result) : (s.complete r).running = none := rfl
@[simp] theorem complete_txState (r : Result) : (s.complete r).txState = s.txState := rfl
@[simp] theorem complete_rxState (r : Result) : (s.complete r).rxState = s.rxState := rfl
@[simp] theorem complete_sess (r : Result) : (s.complete r).sess = s.sess := rfl
@[simp] theorem complete_outcome (r : Result) : (s.complete r).outcome = r := rfl
@[simp] theorem complete_flags (r : Result) : (s.complete r).flags = s.flags := rfl
@[simp] theorem complete_malformedCnt (r : Result) : (s.complete r).malformedCnt = s.malformedCnt := rfl
@[simp] theorem complete_rxTmoCnt (r : Result) : (s.complete r).rxTmoCnt = s.rxTmoCnt := rfl
@[simp] theorem complete_conf (r : Result) : (s.complete r).conf = s.conf := rfl
@[simp] theorem complete_codec (r : Result) : (s.complete r).codec = s.codec := rfl
@[simp] theorem complete_tx (r : Result) : (s.complete r).tx = s.tx := rfl
@[simp] theorem complete_rx (r : Result) : (s.complete r).rx = s.rx := rfl
@[simp] theorem complete_stage (r : Result) : (s.complete r).stage = s.stage := rfl
@[simp] theorem complete_unwritten (r : Result) : (s.complete r).unwritten = s.unwritten := rfl
@[simp] theorem complete_unreadyLaunches (r : Result) : (s.complete r).unreadyLaunches = s.unreadyLaunches := rfl
@[simp] theorem complete_env (r : Result) : (s.complete r).env = s.env := rfl

@[simp] theorem createSession_running (ro : Role) (c : CorrId) (v : Iv) : (s.createSession ro c v).running = s.running := rfl
@[simp] theorem createSession_txState (ro : Role) (c : CorrId) (v : Iv) : (s.createSession ro c v).txState = s.txState := rfl
@[simp] theorem createSession_rxState (ro : Role) (c : CorrId) (v : Iv) : (s.createSession ro c v).rxState = s.rxState := rfl
@[simp] theorem createSession_sess (ro : Role) (c : CorrId) (v : Iv) : (s.createSession ro c v).sess = ⟨true, ro, c, v⟩ := rfl
@[simp] theorem createSession_outcome (ro : Role) (c : CorrId) (v : Iv) : (s.createSession ro c v).outcome = s.outcome := rfl
@[simp] theorem createSession_flags (ro : Role) (c : CorrId) (v : Iv) : (s.createSession ro c v).flags = s.flags := rfl
@[simp] theorem createSession_malformedCnt (ro : Role) (c : CorrId) (v : Iv) : (s.createSession ro c v).malformedCnt = s.malformedCnt := rfl
@[simp] theorem createSession_rxTmoCnt (ro : Role) (c : CorrId) (v : Iv) : (s.createSession ro c v).rxTmoCnt = s.rxTmoCnt := rfl
@[simp] theorem createSession_conf (ro : Role) (c : CorrId) (v : Iv) : (s.createSession ro c v).conf = s.conf := rfl
@[simp] theorem createSession_codec (ro : Role) (c : CorrId) (v : Iv) : (s.createSession ro c v).codec = s.codec := rfl
@[simp] theorem createSession_tx (ro : Role) (c : CorrId) (v : Iv) : (s.createSession ro c v).tx = s.tx := rfl
@[simp] theorem createSession_rx (ro : Role) (c : CorrId) (v : Iv) : (s.createSession ro c v).rx = s.rx := rfl
@[simp] theorem createSession_stage (ro : Role) (c : CorrId) (v : Iv) : (s.createSession ro c v).stage = s.stage := rfl
@[simp] theorem createSession_unwritten (ro : Role) (c : CorrId) (v : Iv) : (s.createSession ro c v).unwritten = s.unwritten := rfl
@[simp] theorem createSession_unreadyLaunches (ro : Role) (c : CorrId) (v : Iv) : (s.createSession ro c v).unreadyLaunches = s.unreadyLaunches := rfl
@[simp] theorem createSession_env (ro : Role) (c : CorrId) (v : Iv) : (s.createSession ro c v).env = s.env := rfl

@[simp] theorem discardSession_running : (s.discardSession).running = s.running := rfl
@[simp] theorem discardSession_txState : (s.discardSession).txState = s.txState := rfl
@[simp] theorem discardSession_rxState : (s.discardSession).rxState = s.rxState := rfl
@[simp] theorem discardSession_sess : (s.discardSession).sess = Session.closed := rfl
@[simp] theorem discardSession_outcome : (s.discardSession).outcome = s.outcome := rfl
@[simp] theorem discardSession_flags : (s.discardSession).flags = s.flags := rfl
@[simp] theorem discardSession_malformedCnt : (s.discardSession).malformedCnt = s.malformedCnt := rfl
@[simp] theorem discardSession_rxTmoCnt : (s.discardSession).rxTmoCnt = s.rxTmoCnt := rfl
@[simp] theorem discardSession_conf : (s.discardSession).conf = s.conf := rfl
@[simp] theorem discardSession_codec : (s.discardSession).codec = s.codec := rfl
@[simp] theorem discardSession_tx : (s.discardSession).tx = s.tx := rfl
@[simp] theorem discardSession_rx : (s.discardSession).rx = s.rx := rfl
@[simp] theorem discardSession_stage : (s.discardSession).stage = { s.stage with rxhType := 0, rxhLen := 0 } := rfl
@[simp] theorem discardSession_unwritten : (s.discardSession).unwritten = s.unwritten := rfl
@[simp] theorem discardSession_unreadyLaunches : (s.discardSession).unreadyLaunches = s.unreadyLaunches := rfl
@[simp] theorem discardSession_env : (s.discardSession).env = s.env := rfl

@[simp] theorem holdFrame_running (f : Frame) : (s.holdFrame f).running = s.running := rfl
@[simp] theorem holdFrame_txState (f : Frame) : (s.holdFrame f).txState = s.txState := rfl
@[simp] theorem holdFrame_rxState (f : Frame) : (s.holdFrame f).rxState = s.rxState := rfl
@[simp] theorem holdFrame_sess (f : Frame) : (s.holdFrame f).sess = s.sess := rfl
@[simp] theorem holdFrame_outcome (f : Frame) : (s.holdFrame f).outcome = s.outcome := rfl
@[simp] theorem holdFrame_flags (f : Frame) : (s.holdFrame f).flags = s.flags := rfl
@[simp] theorem holdFrame_malformedCnt (f : Frame) : (s.holdFrame f).malformedCnt = s.malformedCnt := rfl
@[simp] theorem holdFrame_rxTmoCnt (f : Frame) : (s.holdFrame f).rxTmoCnt = s.rxTmoCnt := rfl
@[simp] theorem holdFrame_conf (f : Frame) : (s.holdFrame f).conf = s.conf := rfl
@[simp] theorem holdFrame_codec (f : Frame) : (s.holdFrame f).codec = s.codec := rfl
@[simp] theorem holdFrame_tx (f : Frame) : (s.holdFrame f).tx = s.tx := rfl
@[simp] theorem holdFrame_rx (f : Frame) : (s.holdFrame f).rx = s.rx := rfl
@[simp] theorem holdFrame_stage (f : Frame) : (s.holdFrame f).stage = { s.stage with rxf := f } := rfl
@[simp] theorem holdFrame_unwritten (f : Frame) : (s.holdFrame f).unwritten = s.unwritten := rfl
@[simp] theorem holdFrame_unreadyLaunches (f : Frame) : (s.holdFrame f).unreadyLaunches = s.unreadyLaunches := rfl
@[simp] theorem holdFrame_env (f : Frame) : (s.holdFrame f).env = s.env := rfl

@[simp] theorem markWritten_running (rs : List Reg) : (s.markWritten rs).running = s.running := rfl
@[simp] theorem markWritten_txState (rs : List Reg) : (s.markWritten rs).txState = s.txState := rfl
@[simp] theorem markWritten_rxState (rs : List Reg) : (s.markWritten rs).rxState = s.rxState := rfl
@[simp] theorem markWritten_sess (rs : List Reg) : (s.markWritten rs).sess = s.sess := rfl
@[simp] theorem markWritten_outcome (rs : List Reg) : (s.markWritten rs).outcome = s.outcome := rfl
@[simp] theorem markWritten_flags (rs : List Reg) : (s.markWritten rs).flags = s.flags := rfl
@[simp] theorem markWritten_malformedCnt (rs : List Reg) : (s.markWritten rs).malformedCnt = s.malformedCnt := rfl
@[simp] theorem markWritten_rxTmoCnt (rs : List Reg) : (s.markWritten rs).rxTmoCnt = s.rxTmoCnt := rfl
@[simp] theorem markWritten_conf (rs : List Reg) : (s.markWritten rs).conf = s.conf := rfl
@[simp] theorem markWritten_codec (rs : List Reg) : (s.markWritten rs).codec = s.codec := rfl
@[simp] theorem markWritten_tx (rs : List Reg) : (s.markWritten rs).tx = s.tx := rfl
@[simp] theorem markWritten_rx (rs : List Reg) : (s.markWritten rs).rx = s.rx := rfl
@[simp] theorem markWritten_stage (rs : List Reg) : (s.markWritten rs).stage = s.stage := rfl
@[simp] theorem markWritten_unwritten (rs : List Reg) : (s.markWritten rs).unwritten = s.unwritten.filter fun r => !rs.contains r := rfl
@[simp] theorem markWritten_unreadyLaunches (rs : List Reg) : (s.markWritten rs).unreadyLaunches = s.unreadyLaunches := rfl
@[simp] theorem markWritten_env (rs : List Reg) : (s.markWritten rs).env = s.env := rfl

@[simp] theorem markUndefined_running (rs : List Reg) : (s.markUndefined rs).running = s.running := rfl
@[simp] theorem markUndefined_txState (rs : List Reg) : (s.markUndefined rs).txState = s.txState := rfl
@[simp] theorem markUndefined_rxState (rs : List Reg) : (s.markUndefined rs).rxState = s.rxState := rfl
@[simp] theorem markUndefined_sess (rs : List Reg) : (s.markUndefined rs).sess = s.sess := rfl
@[simp] theorem markUndefined_outcome (rs : List Reg) : (s.markUndefined rs).outcome = s.outcome := rfl
@[simp] theorem markUndefined_flags (rs : List Reg) : (s.markUndefined rs).flags = s.flags := rfl
@[simp] theorem markUndefined_malformedCnt (rs : List Reg) : (s.markUndefined rs).malformedCnt = s.malformedCnt := rfl
@[simp] theorem markUndefined_rxTmoCnt (rs : List Reg) : (s.markUndefined rs).rxTmoCnt = s.rxTmoCnt := rfl
@[simp] theorem markUndefined_conf (rs : List Reg) : (s.markUndefined rs).conf = s.conf := rfl
@[simp] theorem markUndefined_codec (rs : List Reg) : (s.markUndefined rs).codec = s.codec := rfl
@[simp] theorem markUndefined_tx (rs : List Reg) : (s.markUndefined rs).tx = s.tx := rfl
@[simp] theorem markUndefined_rx (rs : List Reg) : (s.markUndefined rs).rx = s.rx := rfl
@[simp] theorem markUndefined_stage (rs : List Reg) : (s.markUndefined rs).stage = s.stage := rfl
@[simp] theorem markUndefined_unwritten (rs : List Reg) :
    (s.markUndefined rs).unwritten = Reg.all.filter fun r => s.unwritten.contains r || rs.contains r := rfl
@[simp] theorem markUndefined_unreadyLaunches (rs : List Reg) : (s.markUndefined rs).unreadyLaunches = s.unreadyLaunches := rfl
@[simp] theorem markUndefined_env (rs : List Reg) : (s.markUndefined rs).env = s.env := rfl

@[simp] theorem popInput_running : (s.popInput).running = s.running := rfl
@[simp] theorem popInput_txState : (s.popInput).txState = s.txState := rfl
@[simp] theorem popInput_rxState : (s.popInput).rxState = s.rxState := rfl
@[simp] theorem popInput_sess : (s.popInput).sess = s.sess := rfl
@[simp] theorem popInput_outcome : (s.popInput).outcome = s.outcome := rfl
@[simp] theorem popInput_flags : (s.popInput).flags = s.flags := rfl
@[simp] theorem popInput_malformedCnt : (s.popInput).malformedCnt = s.malformedCnt := rfl
@[simp] theorem popInput_rxTmoCnt : (s.popInput).rxTmoCnt = s.rxTmoCnt := rfl
@[simp] theorem popInput_conf : (s.popInput).conf = s.conf := rfl
@[simp] theorem popInput_codec : (s.popInput).codec = s.codec := rfl
@[simp] theorem popInput_tx : (s.popInput).tx = s.tx := rfl
@[simp] theorem popInput_rx : (s.popInput).rx = s.rx := rfl
@[simp] theorem popInput_stage : (s.popInput).stage = s.stage := rfl
@[simp] theorem popInput_unwritten : (s.popInput).unwritten = s.unwritten := rfl
@[simp] theorem popInput_unreadyLaunches : (s.popInput).unreadyLaunches = s.unreadyLaunches := rfl
@[simp] theorem popInput_env : (s.popInput).env = { s.env with inputs := s.env.inputs.tail } := rfl

@[simp] theorem illegalCommand_running : (s.illegalCommand).running = s.running := rfl
@[simp] theorem illegalCommand_txState : (s.illegalCommand).txState = s.txState := rfl
@[simp] theorem illegalCommand_rxState : (s.illegalCommand).rxState = s.rxState := rfl
@[simp] theorem illegalCommand_sess : (s.illegalCommand).sess = s.sess := rfl
@[simp] theorem illegalCommand_outcome : (s.illegalCommand).outcome = .illegalCommand := rfl
@[simp] theorem illegalCommand_flags : (s.illegalCommand).flags = s.flags := rfl
@[simp] theorem illegalCommand_malformedCnt : (s.illegalCommand).malformedCnt = s.malformedCnt := rfl
@[simp] theorem illegalCommand_rxTmoCnt : (s.illegalCommand).rxTmoCnt = s.rxTmoCnt := rfl
@[simp] theorem illegalCommand_conf : (s.illegalCommand).conf = s.conf := rfl
@[simp] theorem illegalCommand_codec : (s.illegalCommand).codec = s.codec := rfl
@[simp] theorem illegalCommand_tx : (s.illegalCommand).tx = s.tx := rfl
@[simp] theorem illegalCommand_rx : (s.illegalCommand).rx = s.rx := rfl
@[simp] theorem illegalCommand_stage : (s.illegalCommand).stage = s.stage := rfl
@[simp] theorem illegalCommand_unwritten : (s.illegalCommand).unwritten = s.unwritten := rfl
@[simp] theorem illegalCommand_unreadyLaunches : (s.illegalCommand).unreadyLaunches = s.unreadyLaunches := rfl
@[simp] theorem illegalCommand_env : (s.illegalCommand).env = s.env := rfl

@[simp] theorem hostRead_running (n : Nat) : (s.hostRead n).running = s.running := rfl
@[simp] theorem hostRead_txState (n : Nat) : (s.hostRead n).txState = s.txState := rfl
@[simp] theorem hostRead_rxState (n : Nat) : (s.hostRead n).rxState = s.rxState := rfl
@[simp] theorem hostRead_sess (n : Nat) : (s.hostRead n).sess = s.sess := rfl
@[simp] theorem hostRead_outcome (n : Nat) : (s.hostRead n).outcome = s.outcome := rfl
@[simp] theorem hostRead_flags (n : Nat) : (s.hostRead n).flags = s.flags := rfl
@[simp] theorem hostRead_malformedCnt (n : Nat) : (s.hostRead n).malformedCnt = s.malformedCnt := rfl
@[simp] theorem hostRead_rxTmoCnt (n : Nat) : (s.hostRead n).rxTmoCnt = s.rxTmoCnt := rfl
@[simp] theorem hostRead_conf (n : Nat) : (s.hostRead n).conf = s.conf := rfl
@[simp] theorem hostRead_codec (n : Nat) : (s.hostRead n).codec = s.codec := rfl
@[simp] theorem hostRead_tx (n : Nat) : (s.hostRead n).tx = s.tx := rfl
@[simp] theorem hostRead_rx (n : Nat) : (s.hostRead n).rx = s.rx := rfl
@[simp] theorem hostRead_stage (n : Nat) : (s.hostRead n).stage = s.stage := rfl
@[simp] theorem hostRead_unwritten (n : Nat) : (s.hostRead n).unwritten = s.unwritten := rfl
@[simp] theorem hostRead_unreadyLaunches (n : Nat) : (s.hostRead n).unreadyLaunches = s.unreadyLaunches := rfl
@[simp] theorem hostRead_env (n : Nat) : (s.hostRead n).env = { s.env with reads := s.env.reads ++ [⟨n, s.portValue n⟩] } := rfl

/-! `putReg` writes the configuration, codec and send operand groups alone (R42, R11). -/

@[simp] theorem putReg_running (r : Reg) (v : BitVec 256) : (s.putReg r v).running = s.running := by cases r <;> rfl
@[simp] theorem putReg_txState (r : Reg) (v : BitVec 256) : (s.putReg r v).txState = s.txState := by cases r <;> rfl
@[simp] theorem putReg_rxState (r : Reg) (v : BitVec 256) : (s.putReg r v).rxState = s.rxState := by cases r <;> rfl
@[simp] theorem putReg_sess (r : Reg) (v : BitVec 256) : (s.putReg r v).sess = s.sess := by cases r <;> rfl
@[simp] theorem putReg_outcome (r : Reg) (v : BitVec 256) : (s.putReg r v).outcome = s.outcome := by cases r <;> rfl
@[simp] theorem putReg_flags (r : Reg) (v : BitVec 256) : (s.putReg r v).flags = s.flags := by cases r <;> rfl
@[simp] theorem putReg_malformedCnt (r : Reg) (v : BitVec 256) : (s.putReg r v).malformedCnt = s.malformedCnt := by cases r <;> rfl
@[simp] theorem putReg_rxTmoCnt (r : Reg) (v : BitVec 256) : (s.putReg r v).rxTmoCnt = s.rxTmoCnt := by cases r <;> rfl
@[simp] theorem putReg_rx (r : Reg) (v : BitVec 256) : (s.putReg r v).rx = s.rx := by cases r <;> rfl
@[simp] theorem putReg_stage (r : Reg) (v : BitVec 256) : (s.putReg r v).stage = s.stage := by cases r <;> rfl
@[simp] theorem putReg_unwritten (r : Reg) (v : BitVec 256) : (s.putReg r v).unwritten = s.unwritten := by cases r <;> rfl
@[simp] theorem putReg_unreadyLaunches (r : Reg) (v : BitVec 256) : (s.putReg r v).unreadyLaunches = s.unreadyLaunches := by
  cases r <;> rfl
@[simp] theorem putReg_env (r : Reg) (v : BitVec 256) : (s.putReg r v).env = s.env := by cases r <;> rfl

/-! Whether a launch is ready depends on the unwritten registers alone (R162). -/

@[simp] theorem accept_launchReady (c d : Cmd) : (s.accept c).launchReady d = s.launchReady d := rfl
@[simp] theorem popInput_launchReady (d : Cmd) : s.popInput.launchReady d = s.launchReady d := rfl
@[simp] theorem putReg_launchReady (r : Reg) (v : BitVec 256) (d : Cmd) :
    (s.putReg r v).launchReady d = s.launchReady d := by
  cases r <;> rfl

/-- Which registers hold no defined value after an unready launch wrote some. -/
theorem mem_markUndefined (rs : List Reg) (q : Reg) :
    q ∈ (s.markUndefined rs).unwritten ↔ q ∈ s.unwritten ∨ q ∈ rs := by
  have : q ∈ Reg.all := by cases q <;> decide
  simp [this]

/-- Writing a register and being accepted commute. -/
theorem putReg_accept (r : Reg) (v : BitVec 256) (c : Cmd) : (s.putReg r v).accept c = (s.accept c).putReg r v := by
  cases r <;> rfl

/-- Writing a register and ending a command commute. -/
theorem putReg_complete (r : Reg) (v : BitVec 256) (o : Result) :
    (s.putReg r v).complete o = (s.complete o).putReg r v := by
  cases r <;> rfl

end

end Sys2Proof.Machine
end

