-- ==== Sys2Proof/Laws/Ops.lean ====
section
/-! SUPPORT. For each shared operation, once, everything it can do. -/

namespace Sys2Proof.Machine

variable (s : State)

/-! ### Transactions (R47, R48, R55) -/

theorem drawNonce_cases :
    (s.env.nonces = [] ∧ s.drawNonce = none) ∨
    ∃ c v rest, s.env.nonces = (c, v) :: rest ∧ s.drawNonce = some ((c, v), { s with env := { s.env with nonces := rest } }) := by
  rcases h : s.env.nonces with _ | ⟨⟨c, v⟩, rest⟩
  · exact .inl ⟨rfl, by simp [State.drawNonce, h]⟩
  · exact .inr ⟨c, v, rest, rfl, by simp [State.drawNonce, h]⟩

theorem sendFrame_cases (f : Frame) :
    (s.env.sendAnswers = [] ∧ s.sendFrame f = none) ∨
    ∃ a rest, s.env.sendAnswers = a :: rest ∧ s.sendFrame f = some (a, { s with
      stage := { s.stage with txf := f }
      env := { s.env with sendAnswers := rest, sent := s.env.sent ++ [⟨s.sendAddress, f, a⟩] } }) := by
  rcases h : s.env.sendAnswers with _ | ⟨a, rest⟩
  · exact .inl ⟨rfl, by simp [State.sendFrame, h]⟩
  · exact .inr ⟨a, rest, rfl, by simp [State.sendFrame, h]⟩

theorem pollFrame_cases :
    (s.env.pollAnswers = [] ∧ s.pollFrame = none) ∨
    ∃ a rest, s.env.pollAnswers = a :: rest ∧
      s.pollFrame = some (a, { s with env := { s.env with pollAnswers := rest } }) := by
  rcases h : s.env.pollAnswers with _ | ⟨a, rest⟩
  · exact .inl ⟨rfl, by simp [State.pollFrame, h]⟩
  · exact .inr ⟨a, rest, rfl, by simp [State.pollFrame, h]⟩

/-- One transmit: it waits, or the frame is handed over and Transport's answer decides (R113, R114). -/
theorem sendTransmit_cases (f : Frame) (sent : TxState) :
    (s.env.sendAnswers = [] ∧ sendTransmit f sent s = s) ∨
    ∃ a rest, s.env.sendAnswers = a :: rest ∧
      let e := { s.env with sendAnswers := rest, sent := s.env.sent ++ [⟨s.sendAddress, f, a⟩] }
      ((a = .ok ∧ sendTransmit f sent s = { s with txState := sent, stage := { s.stage with txf := f }, env := e }) ∨
       (a = .fail ∧ sendTransmit f sent s = { s with
          running := none, outcome := .transportFailure, sess := Session.closed
          stage := { s.stage with txf := f, rxhType := 0, rxhLen := 0 }, env := e })) := by
  rcases sendFrame_cases s f with ⟨h, hf⟩ | ⟨a, rest, h, hf⟩
  · exact .inl ⟨h, by simp [sendTransmit, hf]⟩
  · refine .inr ⟨a, rest, h, ?_⟩
    cases a
    · exact .inl ⟨rfl, by simp [sendTransmit, hf]⟩
    · exact .inr ⟨rfl, by simp only [sendTransmit, hf]; rfl⟩

/-! ### Commands -/

/-- The record of unready launches after a launch: as it was, or with this launch. -/
theorem unreadyLaunchesAfter_cases (c : Cmd) :
    (s.launchReady c = true ∧ s.unreadyLaunchesAfter c = s.unreadyLaunches) ∨
    (s.launchReady c = false ∧ s.unreadyLaunchesAfter c = s.unreadyLaunches ++ [c]) := by
  cases h : s.launchReady c
  · exact .inr ⟨rfl, by simp [State.unreadyLaunchesAfter, h]⟩
  · exact .inl ⟨rfl, by simp [State.unreadyLaunchesAfter, h]⟩

/-- A ready launch leaves no record. -/
theorem unreadyLaunchesAfter_ready (c : Cmd) (h : s.launchReady c = true) :
    s.unreadyLaunchesAfter c = s.unreadyLaunches := by
  simp [State.unreadyLaunchesAfter, h]

/-- A codec command with no command running and its registers written (R142, R143). -/
theorem codecCommand_ready (c : Cmd) (effect unready : State → State) (h : s.running = none)
    (hl : s.launchReady c = true) : s.codecCommand c effect unready = (effect (s.accept c)).complete .ok := by
  simp [State.codecCommand, State.canRun, h, hl]

/-- A codec command with no command running and a register of its row unwritten (R163). -/
theorem codecCommand_unready (c : Cmd) (effect unready : State → State) (h : s.running = none)
    (hl : s.launchReady c = false) : s.codecCommand c effect unready = (unready (s.accept c)).complete .ok := by
  simp [State.codecCommand, State.canRun, h, hl]

/-- A codec command while another runs (R43). -/
theorem codecCommand_other (c d : Cmd) (effect unready : State → State) (h : s.running = some d) (hd : d ≠ c) :
    s.codecCommand c effect unready = s := by
  simp [State.codecCommand, State.canRun, h, hd]

/-! ### What a ready SEND builds and a ready RECV judges (R163's premise) -/

theorem headerToSend_ready (h : s.launchReady .send = true) :
    s.headerToSend = encodeHeader s.env.suite s.sess.corr s.tx.type s.tx.len s.sess.iv := by
  simp [State.headerToSend, h]

theorem messageToSend_ready (h : s.launchReady .send = true) :
    s.messageToSend = encodeMessage s.env.suite s.tx.payload s.conf.destKey s.sess.iv := by
  simp [State.messageToSend, h]

theorem sendAddress_ready (h : s.launchReady .send = true) : s.sendAddress = s.conf.destAddr := by
  simp [State.sendAddress, h]

theorem waitBudget_ready (h : s.launchReady .recv = true) : s.waitBudget = s.conf.rxTimeout := by
  simp [State.waitBudget, h]

theorem judgeMessage_ready (f : Frame) (h : s.launchReady .recv = true) :
    s.judgeMessage f =
      (⟨(decodeMessage s.env.suite f s.conf.localKey s.sess.iv).1, s.sess.corr, s.stage.rxhType, s.stage.rxhLen⟩,
        (decodeMessage s.env.suite f s.conf.localKey s.sess.iv).2) := by
  simp [State.judgeMessage, h]

/-! ### The receive sequencer and its frame -/

/-- V2 is one of three (R123, R124, R125). -/
theorem recvV2_cases (f : Frame) :
    (hasMarker f = false ∧ recvV2 f s = { s with
      running := none, outcome := .noMessage, malformedCnt := s.malformedCnt + 1, rxState := .idle
      stage := { s.stage with rxf := f } }) ∨
    (hasMarker f = true ∧ verifyChecksum s.env.suite f = false ∧ recvV2 f s = { s with
      running := none, outcome := .integrityHeader, rxState := .rejected, sess := Session.closed
      stage := { s.stage with rxf := f, rxhType := 0, rxhLen := 0 } }) ∨
    (hasMarker f = true ∧ verifyChecksum s.env.suite f = true ∧ recvV2 f s = { s with
      rxState := .headerValid, stage := { s.stage with rxf := f } }) := by
  cases hm : hasMarker f
  · exact .inl ⟨rfl, by simp [recvV2, decodeHeader, hm, State.holdFrame, State.complete]⟩
  · cases hk : verifyChecksum s.env.suite f
    · exact .inr (.inl ⟨rfl, rfl, by simp only [recvV2, decodeHeader, hm, hk]; rfl⟩)
    · exact .inr (.inr ⟨rfl, rfl, by simp only [recvV2, decodeHeader, hm, hk]; rfl⟩)

/-- V4 is one of four (R127). -/
theorem recvV4_cases :
    (s.rxTmoCnt = 0 ∧ recvV4 s = { s with
      running := none, outcome := .timeout, rxState := .rejected, sess := Session.closed
      stage := { s.stage with rxhType := 0, rxhLen := 0 } }) ∨
    (s.rxTmoCnt ≠ 0 ∧ s.env.pollAnswers = [] ∧ recvV4 s = s) ∨
    (s.rxTmoCnt ≠ 0 ∧ ∃ rest, s.env.pollAnswers = none :: rest ∧
      recvV4 s = { s with rxTmoCnt := s.rxTmoCnt - 1, env := { s.env with pollAnswers := rest } }) ∨
    (s.rxTmoCnt ≠ 0 ∧ ∃ f rest, s.env.pollAnswers = some f :: rest ∧
      recvV4 s = { s with stage := { s.stage with rxf := f, rxHeld := true }, env := { s.env with pollAnswers := rest } }) := by
  by_cases h0 : s.rxTmoCnt = 0
  · exact .inl ⟨h0, by rw [recvV4, if_pos h0]; rfl⟩
  · rcases pollFrame_cases s with ⟨h, hf⟩ | ⟨_ | f, rest, h, hf⟩
    · exact .inr (.inl ⟨h0, h, by rw [recvV4, if_neg h0, hf]⟩)
    · exact .inr (.inr (.inl ⟨h0, rest, h, by rw [recvV4, if_neg h0, hf]⟩))
    · exact .inr (.inr (.inr ⟨h0, f, rest, h, by rw [recvV4, if_neg h0, hf]⟩))

/-- V5 delivers or rejects (R128, R129). -/
theorem recvV5_cases (f : Frame) :
    let d := s.judgeMessage f
    (d.2 = true ∧ recvV5 f s = { s with
      running := none, outcome := .ok, rxState := .delivered, sess := Session.closed
      rx := d.1
      stage := { s.stage with rxf := f, rxHeld := false, rxhType := 0, rxhLen := 0 } }) ∨
    (d.2 = false ∧ recvV5 f s = { s with
      running := none, outcome := .integrityMessage, rxState := .rejected, sess := Session.closed
      stage := { s.stage with rxf := f, rxHeld := false, rxhType := 0, rxhLen := 0 } }) := by
  intro d
  cases h : d.2
  · exact .inr ⟨rfl, by simp only [recvV5]; rw [if_neg (by simpa [d] using h)]; rfl⟩
  · exact .inl ⟨rfl, by simp only [recvV5]; rw [if_pos (by simpa [d] using h)]; rfl⟩

/-- What the receive sequencer does with a frame it is given (R73, R123, R128, R149). -/
theorem recvFrame_cases (f : Frame) :
    (s.running = some .recv ∧ s.rxState = .awaitingHeader ∧ recvFrame f s = recvV2 f s) ∨
    (s.running = some .recv ∧ s.rxState = .awaitingMessage ∧ s.stage.rxHeld = true ∧ recvFrame f s = recvV5 f s) ∨
    ((s.running ≠ some .recv ∨ (s.rxState ≠ .awaitingHeader ∧ (s.rxState = .awaitingMessage → s.stage.rxHeld = false))) ∧
      recvFrame f s = s) := by
  by_cases hr : s.running = some .recv
  · cases hx : s.rxState <;> cases hh : s.stage.rxHeld <;> simp [recvFrame, hr, hx, hh]
  · simp [recvFrame, hr]

end Sys2Proof.Machine
end

