-- ==== Sys2Proof/Laws/PerInstr.lean ====
section
/-! SUPPORT. Statements made per instruction, as syntax: the length of its encoding. -/

namespace Sys2Proof.Laws.Width

/-- The bits the opcode table gives the instruction's row. -/
def tableBits : Instr → Nat
  | .encHdr => 8
  | .decHdr => 8
  | .encMsg => 8
  | .decMsg => 8
  | .send => 8
  | .recv => 8
  | .headerFrame _ _ _ _ _ => 256
  | .messageFrame _ _ => 256

/-- The encoding has as many bits as the opcode table says. -/
def Statement (i : Instr) : Prop := 8 * (encode i).length = tableBits i

theorem encHdr : Statement .encHdr := rfl
theorem decHdr : Statement .decHdr := rfl
theorem encMsg : Statement .encMsg := rfl
theorem decMsg : Statement .decMsg := rfl
theorem send : Statement .send := rfl
theorem recv : Statement .recv := rfl

theorem headerFrame (c : CorrId) (t l : Byte) (v : Iv) (k : Cksum) : Statement (.headerFrame c t l v k) := by
  simp [Statement, encode, tableBits, toBytes_length]

theorem messageFrame (x y : BitVec 128) : Statement (.messageFrame x y) := by
  simp [Statement, encode, tableBits, toBytes_length]

end Sys2Proof.Laws.Width
end

