-- ==== Sys2Proof/Laws/Safety.lean ====
section
/-! SUPPORT. What the notions of Safety say: the launch of a command (R162, R163) and the end of a run (R169). -/

namespace Sys2Proof.Safety

open Sys2Proof.Machine

/-- The premise of a claim about an instruction is that of its command's launch. -/
theorem launchReady_eq (i : Instr) (s : State) : launchReady i s = s.launchReady (Cmd.ofInstr i) := rfl

/-- The table of R162, asked of the registers nothing has written. -/
theorem launchReady_iff (i : Instr) (s : State) :
    launchReady i s = true ↔ ∀ r ∈ (Cmd.ofInstr i).launchRegs, r ∉ s.unwritten := by
  simp [launchReady, State.launchReady]

/-- A command's own launch. -/
@[simp] theorem launchReady_instr (c : Cmd) (s : State) : launchReady c.instr s = s.launchReady c := by
  cases c <;> rfl

@[simp] theorem launchReady_popInput (i : Instr) (s : State) : launchReady i s.popInput = launchReady i s := rfl

/-- An unready launch, as the CMD write it is (R163). -/
theorem unreadyLaunch_iff (s : State) :
    unreadyLaunch s = true ↔ s.running = none ∧ ∃ v rest i, s.env.inputs = .write Reg.cmd.number v :: rest ∧
      decodeCommand (v.setWidth 8) = some i ∧ launchReady i s = false := by
  unfold unreadyLaunch
  rcases h : s.env.inputs with _ | ⟨_ | ⟨n, v⟩ | _ | _, rest⟩ <;> simp
  by_cases hn : n = Reg.cmd.number <;> cases hd : decodeCommand (v.setWidth 8) <;>
    simp [hn, State.busy]

theorem ended_iff (s : State) : ended s = true ↔ s.running = none ∧ ∀ x ∈ s.env.inputs, x = .pass := by
  simp [ended, State.busy]

end Sys2Proof.Safety
end

