-- ==== Sys2Proof/Laws/Step.lean ====
section
/-! SUPPORT. What one step is, by the input that is next (R41, R42, R142, R160). -/

namespace Sys2Proof.Machine

variable (s : State)

/-- A command word selects a command. -/
theorem instr_ofInstr {w : Byte} {i : Instr} (h : decodeCommand w = some i) : (Cmd.ofInstr i).instr = i := by
  have all : ∀ w : Byte, (decodeCommand w).all (fun i => (Cmd.ofInstr i).instr == i) = true := by decide
  simpa [h] using all w

/-- The sequencer's next micro-step, run. -/
def microStep (s : State) : Out :=
  match fetchMicroStep s with
  | .run i s' => exec i s'
  | .done s' => .next s'

theorem step_of_nil (h : s.env.inputs = []) : step s = microStep s := by
  simp only [step, fetch, h]; rfl

theorem step_of_pass {rest : List Input} (h : s.env.inputs = .pass :: rest) : step s = microStep s.popInput := by
  simp only [step, fetch, h]; rfl

theorem step_of_read {n : Nat} {rest : List Input} (h : s.env.inputs = .read n :: rest) :
    step s = .next (s.popInput.hostRead n) := by
  simp [step, fetch, h]

theorem step_of_reset {rest : List Input} (h : s.env.inputs = .reset :: rest) :
    step s = .next s.popInput.assertReset := by
  simp [step, fetch, h]

theorem step_of_write {n : Nat} {v : BitVec 256} {rest : List Input} (h : s.env.inputs = .write n v :: rest)
    (hn : n ≠ Reg.cmd.number) : step s = .next (s.popInput.hostWrite n v) := by
  simp [step, fetch, fetchWrite, h, hn]

/-- A CMD write (R142): ignored while busy, an illegal command word, or the command. -/
theorem step_of_command {v : BitVec 256} {rest : List Input} (h : s.env.inputs = .write Reg.cmd.number v :: rest) :
    (s.busy = true ∧ step s = .next s.popInput) ∨
    (s.busy = false ∧ decodeCommand (v.setWidth 8) = none ∧ step s = .next s.popInput.illegalCommand) ∨
    (s.busy = false ∧ ∃ i, decodeCommand (v.setWidth 8) = some i ∧ step s = exec i s.popInput) := by
  have hb : s.popInput.busy = s.busy := rfl
  cases hbusy : s.busy
  · cases hd : decodeCommand (v.setWidth 8)
    · exact .inr (.inl ⟨rfl, rfl, by simp [step, fetch, fetchWrite, fetchCommand, h, hb, hbusy, hd]⟩)
    · exact .inr (.inr ⟨rfl, _, rfl, by simp [step, fetch, fetchWrite, fetchCommand, h, hb, hbusy, hd]⟩)
  · exact .inl ⟨rfl, by simp [step, fetch, fetchWrite, fetchCommand, h, hb, hbusy]⟩

/-- A host write that is not a CMD write changes registers of the writable groups alone (R42, R43). -/
theorem hostWrite_cases (n : Nat) (v : BitVec 256) :
    s.hostWrite n v = s ∨
    ∃ r, Reg.ofNumber n = some r ∧ s.busy = false ∧ r.writable = true ∧ s.hostWrite n v = s.writeReg r v := by
  unfold State.hostWrite
  cases h : Reg.ofNumber n with
  | none => exact .inl rfl
  | some r =>
    by_cases hw : s.busy = false ∧ r.writable = true
    · exact .inr ⟨r, rfl, hw.1, hw.2, by simp [hw.1, hw.2]⟩
    · left
      have : (!s.busy && r.writable) = false := by
        cases hb : s.busy <;> cases hr : r.writable <;> simp_all
      simp [this]

/-- Everything a step can come from.  `s'` is the state the step works on: the state itself, or with its next input
taken. -/
inductive StepOrigin (s : State) (s' : State) (o : Out) : Prop where
  /-- Nothing to do, or a host write that is lost. -/
  | still (h : o = .next s')
  /-- The reset input. -/
  | reset (hi : s.env.inputs.head? = some .reset) (h : o = .next s'.assertReset)
  /-- A host read. -/
  | read (n : Nat) (h : o = .next (s'.hostRead n))
  /-- A host write of a register. -/
  | write (n : Nat) (v : BitVec 256) (h : o = .next (s'.hostWrite n v))
  /-- An illegal command word. -/
  | illegal (hr : s.running = none) (h : o = .next s'.illegalCommand)
  /-- A command word. -/
  | command (hr : s.running = none) (w : Byte) (i : Instr) (hd : decodeCommand w = some i) (h : o = exec i s')
  /-- A first frame that RECV holds. -/
  | firstFrame (hr : s.running = some .recv) (hx : s.rxState = .awaitingHeader)
      (h : o = exec (decodeFirstFrame s.stage.rxf) s')
  /-- A next frame that RECV holds. -/
  | nextFrame (hr : s.running = some .recv) (hx : s.rxState = .awaitingMessage) (hh : s.stage.rxHeld = true)
      (h : o = exec (decodeNextFrame s.stage.rxf) s')
  /-- The running command, no frame held for judging. -/
  | running (c : Cmd) (hr : s.running = some c)
      (hn : c = .recv → s.rxState ≠ .awaitingHeader ∧ (s.rxState = .awaitingMessage → s.stage.rxHeld = false))
      (h : o = exec c.instr s')

/-- A micro-step comes from the running command or the frame it holds. -/
theorem microStep_origin (s' : State) (hr : s'.running = s.running) (hx : s'.rxState = s.rxState)
    (hs : s'.stage = s.stage) : StepOrigin s s' (microStep s') := by
  unfold microStep fetchMicroStep
  rw [hr, hx, hs]
  cases hc : s.running with
  | none => exact .still rfl
  | some c =>
    by_cases h1 : c = .recv ∧ s.rxState = .awaitingHeader
    · obtain ⟨rfl, h1⟩ := h1
      simp only [h1, and_self, if_true]
      exact .firstFrame hc h1 rfl
    · by_cases h2 : c = .recv ∧ s.rxState = .awaitingMessage ∧ s.stage.rxHeld = true
      · simp only [if_neg h1, if_pos h2]
        obtain ⟨rfl, h2, h3⟩ := h2
        exact .nextFrame hc h2 h3 rfl
      · simp only [if_neg h1, if_neg h2]
        refine .running c hc (fun e => ⟨fun hx => h1 ⟨e, hx⟩, fun hx => ?_⟩) rfl
        cases hh : s.stage.rxHeld
        · rfl
        · exact absurd ⟨e, hx, hh⟩ h2

/-- The inversion of a step. -/
theorem step_origin : ∃ s', (s' = s ∨ s' = s.popInput) ∧ StepOrigin s s' (step s) := by
  rcases hi : s.env.inputs with _ | ⟨_ | _ | _ | _, rest⟩
  · exact ⟨s, .inl rfl, step_of_nil s hi ▸ microStep_origin s s rfl rfl rfl⟩
  · exact ⟨_, .inr rfl, .read _ (step_of_read s hi)⟩
  · rename_i n v
    by_cases hn : n = Reg.cmd.number
    · subst hn
      rcases step_of_command s hi with ⟨_, h⟩ | ⟨hb, _, h⟩ | ⟨hb, i, hd, h⟩
      · exact ⟨_, .inr rfl, .still h⟩
      · exact ⟨_, .inr rfl, .illegal (by simpa [State.busy] using hb) h⟩
      · exact ⟨_, .inr rfl, .command (by simpa [State.busy] using hb) _ i hd h⟩
    · exact ⟨_, .inr rfl, .write _ _ (step_of_write s hi hn)⟩
  · exact ⟨_, .inr rfl, .reset (by simp [hi]) (step_of_reset s hi)⟩
  · exact ⟨_, .inr rfl, step_of_pass s hi ▸ microStep_origin s s.popInput rfl rfl rfl⟩

end Sys2Proof.Machine
end

