-- ==== Sys2Proof/Laws/Sequencers.lean ====
section
/-! SUPPORT. The inversion of each meaning: everything SEND (R116), RECV and the frames it holds (R130), and a codec
command (R142) can do, said once; and the step of a running sequencer when no host access is pending. -/

namespace Sys2Proof.Machine

/-- A first frame, run as the instruction it decodes to, is what the receive sequencer does with it. -/
theorem exec_decodeFirstFrame (f : Frame) (s : State) : exec (decodeFirstFrame f) s = .next (recvFrame f s) := by
  unfold decodeFirstFrame
  split_ifs with h
  · rw [asHeader, exec, execHeaderFrame, headerBits_fields f h]
  · rw [asMessage, exec, execMessageFrame, messageBits_blocks]

/-- The same of a next frame. -/
theorem exec_decodeNextFrame (f : Frame) (s : State) : exec (decodeNextFrame f) s = .next (recvFrame f s) := by
  rw [decodeNextFrame, asMessage, exec, execMessageFrame, messageBits_blocks]

/-- Everything SEND can do: accept (T0), wait or be ignored, draw (T1), transmit on either answer (T2, T3), complete (T4). -/
inductive SendOrigin (s : State) : State → Prop where
  | accept (hr : s.running = none) :
      SendOrigin s { s with
        running := some .send, outcome := .none, txState := .ready, unreadyLaunches := s.unreadyLaunchesAfter .send }
  | still (hr : s.running ≠ none) : SendOrigin s s
  | draw (hr : s.running = some .send) (ht : s.txState = .ready) (hs : s.sess.valid = false) (c : CorrId) (v : Iv)
      (rest : List (CorrId × Iv)) (hn : s.env.nonces = (c, v) :: rest) :
      SendOrigin s { s with sess := ⟨true, .initiator, c, v⟩, env := { s.env with nonces := rest } }
  | handed (hr : s.running = some .send) (f : Frame) (sent : TxState)
      (ht : (s.txState = .ready ∧ s.sess.valid = true ∧ sent = .headerSent) ∨
        (s.txState = .headerSent ∧ sent = .messageSent))
      (rest : List SendAnswer) (ha : s.env.sendAnswers = .ok :: rest) :
      SendOrigin s { s with
        txState := sent
        stage := { s.stage with txf := f }
        env := { s.env with sendAnswers := rest, sent := s.env.sent ++ [⟨s.sendAddress, f, .ok⟩] } }
  | failed (hr : s.running = some .send) (f : Frame)
      (ht : (s.txState = .ready ∧ s.sess.valid = true) ∨ s.txState = .headerSent)
      (rest : List SendAnswer) (ha : s.env.sendAnswers = .fail :: rest) :
      SendOrigin s { s with
        running := none
        outcome := .transportFailure
        sess := Session.closed
        stage := { s.stage with txf := f, rxhType := 0, rxhLen := 0 }
        env := { s.env with sendAnswers := rest, sent := s.env.sent ++ [⟨s.sendAddress, f, .fail⟩] } }
  | complete (hr : s.running = some .send) (ht : s.txState = .messageSent) :
      SendOrigin s { s with
        running := none
        outcome := .ok
        txState := .complete
        sess := Session.closed
        stage := { s.stage with rxhType := 0, rxhLen := 0 } }

/-- One transmit comes from an answer, or waits. -/
theorem sendTransmit_origin (s : State) (f : Frame) (sent : TxState) (hr : s.running = some .send)
    (ht : (s.txState = .ready ∧ s.sess.valid = true ∧ sent = .headerSent) ∨
      (s.txState = .headerSent ∧ sent = .messageSent)) :
    SendOrigin s (sendTransmit f sent s) := by
  rcases sendTransmit_cases s f sent with ⟨_, e⟩ | ⟨a, rest, ha, ⟨rfl, e⟩ | ⟨rfl, e⟩⟩ <;> rw [e]
  · exact .still (by simp [hr])
  · exact .handed hr f sent ht rest ha
  · exact .failed hr f (ht.imp (fun h => ⟨h.1, h.2.1⟩) And.left) rest ha

/-- The inversion of SEND. -/
theorem send_origin (s t : State) (h : exec .send s = .next t) : SendOrigin s t := by
  simp only [exec, execSend] at h
  split at h
  · rename_i hr
    injection h with h
    exact h ▸ .accept hr
  · rename_i c hr
    split_ifs at h with hc
    · subst hc
      unfold sendMicroStep at h
      split at h <;> rename_i ht
      · injection h with h
        subst h
        split_ifs with hs
        · exact sendTransmit_origin s _ _ hr (.inl ⟨ht, hs, rfl⟩)
        · rcases drawNonce_cases s with ⟨_, e⟩ | ⟨c, v, rest, hn, e⟩
          · rw [sendT1, e]; exact .still (by simp [hr])
          · rw [sendT1, e]; exact .draw hr ht (by simpa using hs) c v rest hn
      · injection h with h
        subst h
        exact sendTransmit_origin s _ _ hr (.inr ⟨ht, rfl⟩)
      · injection h with h
        subst h
        exact .complete hr ht
      · cases h
    · injection h with h
      exact h ▸ .still (by simp [hr])

/-- Everything RECV, or a frame it is given, can do: accept (V0), wait or be ignored, poll (V1), test the header (V2),
open the session (V3), wait one round (V4), judge the message (V5). -/
inductive RecvOrigin (s : State) : State → Prop where
  | accept (hr : s.running = none) :
      RecvOrigin s { s with
        running := some .recv, outcome := .none, rxState := .idle, rx := RxRegs.zero, rxTmoCnt := 0
        unreadyLaunches := s.unreadyLaunchesAfter .recv }
  | still : RecvOrigin s s
  | noMessage (hr : s.running = some .recv) (hx : s.rxState = .idle) (rest : List (Option Frame))
      (hp : s.env.pollAnswers = none :: rest) :
      RecvOrigin s { s with running := none, outcome := .noMessage, env := { s.env with pollAnswers := rest } }
  | firstFrame (hr : s.running = some .recv) (hx : s.rxState = .idle) (f : Frame) (rest : List (Option Frame))
      (hp : s.env.pollAnswers = some f :: rest) :
      RecvOrigin s { s with
        rxState := .awaitingHeader, stage := { s.stage with rxf := f }, env := { s.env with pollAnswers := rest } }
  | headerTest (hr : s.running = some .recv) (hx : s.rxState = .awaitingHeader) (f : Frame) : RecvOrigin s (recvV2 f s)
  | openSession (hr : s.running = some .recv) (hx : s.rxState = .headerValid) : RecvOrigin s (recvV3 s)
  | waitRound (hr : s.running = some .recv) (hx : s.rxState = .awaitingMessage) (hh : s.stage.rxHeld = false) :
      RecvOrigin s (recvV4 s)
  | judge (hr : s.running = some .recv) (hx : s.rxState = .awaitingMessage) (hh : s.stage.rxHeld = true) (f : Frame) :
      RecvOrigin s (recvV5 f s)

/-- The inversion of RECV. -/
theorem recv_origin (s t : State) (h : exec .recv s = .next t) : RecvOrigin s t := by
  simp only [exec, execRecv] at h
  split at h
  · rename_i hr
    injection h with h
    exact h ▸ .accept hr
  · rename_i c hr
    split_ifs at h with hc
    · subst hc
      unfold recvMicroStep at h
      split at h <;> rename_i hx <;> first | (cases h; done) | skip
      all_goals
        injection h with h
        subst h
      · rcases pollFrame_cases s with ⟨_, e⟩ | ⟨_ | f, rest, hp, e⟩ <;> rw [recvV1, e]
        · exact .still
        · exact .noMessage hr hx rest hp
        · exact .firstFrame hr hx f rest hp
      · exact .headerTest hr hx _
      · exact .openSession hr hx
      · split_ifs with hh
        · exact .judge hr hx hh _
        · exact .waitRound hr hx (by simpa using hh)
    · injection h with h
      exact h ▸ .still

/-- The inversion of the two frame rows. -/
theorem recvFrame_origin (s : State) (f : Frame) : RecvOrigin s (recvFrame f s) := by
  rcases recvFrame_cases s f with ⟨hr, hx, e⟩ | ⟨hr, hx, hh, e⟩ | ⟨_, e⟩ <;> rw [e]
  · exact .headerTest hr hx f
  · exact .judge hr hx hh f
  · exact .still

/-- A codec command is ignored, or accepted, run and completed, ready (R142) or not (R163). -/
theorem codecCommand_cases (c : Cmd) (effect unready : State → State) (s : State) :
    s.codecCommand c effect unready = s ∨
    (s.canRun c = true ∧ s.launchReady c = true ∧
      s.codecCommand c effect unready = (effect (s.accept c)).complete .ok) ∨
    (s.canRun c = true ∧ s.launchReady c = false ∧
      s.codecCommand c effect unready = (unready (s.accept c)).complete .ok) := by
  unfold State.codecCommand
  split_ifs with h hl
  · exact .inr (.inl ⟨h, hl, rfl⟩)
  · exact .inr (.inr ⟨h, by simpa using hl, rfl⟩)
  · exact .inl rfl

/-- DEC_HDR's effect writes header flags alone, or the flags and the field registers (R93). -/
theorem decHdrEffect_cases (s : State) :
    decHdrEffect s = { s with flags := s.flags.setHeader false false } ∨
    ∃ (k : Bool) (c : CodecRegs), decHdrEffect s =
      State.markWritten [.fCorr, .fType, .fLen, .fIv] { s with flags := s.flags.setHeader true k, codec := c } := by
  unfold decHdrEffect
  rcases decodeHeader_cases s.env.suite s.codec.fb with ⟨_, e⟩ | ⟨_, e⟩ <;> rw [e]
  · exact .inl rfl
  · exact .inr ⟨_, _, rfl⟩

/-- A launch has a next state, whatever the registers hold, and records itself if it is not ready (R163). -/
theorem exec_launch (c : Cmd) (s : State) (hr : s.running = none) :
    ∃ t, exec c.instr s = .next t ∧ t.unreadyLaunches = s.unreadyLaunchesAfter c := by
  have codec : ∀ effect unready : State → State, (∀ s, (effect s).unreadyLaunches = s.unreadyLaunches) →
      (∀ s, (unready s).unreadyLaunches = s.unreadyLaunches) →
      (s.codecCommand c effect unready).unreadyLaunches = s.unreadyLaunchesAfter c := by
    intro effect unready h h'
    have hc : s.canRun c = true := by simp [State.canRun, hr]
    simp only [State.codecCommand, hc, if_true, complete_unreadyLaunches]
    split_ifs <;> simp only [h, h', accept_unreadyLaunches]
  cases c
  case send => exact ⟨sendT0 s, by simp [Cmd.instr, exec, execSend, hr], rfl⟩
  case recv => exact ⟨recvV0 s, by simp [Cmd.instr, exec, execRecv, hr], rfl⟩
  case decHdr =>
    refine ⟨_, rfl, codec _ _ (fun s => ?_) fun _ => rfl⟩
    rcases decHdrEffect_cases s with e | ⟨_, _, e⟩ <;> simp [e]
  all_goals exact ⟨_, rfl, codec _ _ (fun _ => rfl) fun _ => rfl⟩

/-! ### A running sequencer with no host access pending -/

theorem step_send_running (s : State) (hi : s.env.inputs = []) (hr : s.running = some .send) : step s = sendMicroStep s := by
  rw [step_of_nil s hi]
  simp [microStep, fetchMicroStep, hr, Cmd.instr, exec, execSend]

theorem step_recv_running (s : State) (hi : s.env.inputs = []) (hr : s.running = some .recv) : step s = recvMicroStep s := by
  rw [step_of_nil s hi]
  unfold microStep fetchMicroStep
  simp only [hr]
  by_cases h1 : s.rxState = .awaitingHeader
  · simp [h1, exec_decodeFirstFrame, recvFrame, hr, recvMicroStep]
  · by_cases h2 : s.rxState = .awaitingMessage ∧ s.stage.rxHeld = true
    · simp [h2, exec_decodeNextFrame, recvFrame, hr, recvMicroStep]
    · rw [if_neg (by simp [h1]), if_neg (by simpa using h2)]
      simp [Cmd.instr, exec, execRecv, hr]

/-- A run's first step. -/
theorem core_run_succ (k : Nat) (s t : State) (h : step s = .next t) : core.run (k + 1) s = core.run k t := by
  have h' : core.step s = .next t := h
  simp only [Host.Core.run, h']

end Sys2Proof.Machine
end

