-- ==== Sys2Proof/Tests/Slice0.lean ====
section
/-! SUPPORT. The model's own tests: words written out from the encoding tables, the vectors of 95_test_vectors.md (each
test names its vector; the expected values are the spec's), one step each; and for every statement that has hypotheses,
a named witness that meets them. -/

namespace Sys2Proof.Tests

open Sys2Proof.Machine Sys2Proof.Safety

/-! ### Well-formedness: one ill-formed term for each check -/

theorem test_wellFormed_frame_is_no_command :
    (Instr.headerFrame 0 0 0 0 0).wellFormed .command = false ∧ (Instr.messageFrame 0 0).wellFormed .command = false := by
  decide

theorem test_wellFormed_command_is_no_frame :
    ([Instr.encHdr, .decHdr, .encMsg, .decMsg, .send, .recv].all fun i =>
      !i.wellFormed .firstFrame && !i.wellFormed .nextFrame && i.wellFormed .command) = true := by
  decide

theorem test_wellFormed_marked_frame_is_no_message :
    (Instr.messageFrame 0xFFFFFFFFFFFFFFFF0000000000000000 0).wellFormed .firstFrame = false ∧
    (Instr.messageFrame 0xFFFFFFFFFFFFFFFE0000000000000000 0).wellFormed .firstFrame = true := by
  decide

theorem test_wellFormed_next_frame_is_no_header : (Instr.headerFrame 0 0 0 0 0).wellFormed .nextFrame = false := by
  decide

/-! ### Words written out from the encoding tables (R76; R71 with V1.1; R72 with V3.1; R73) -/

theorem test_decode_codec_words :
    decodeTableWord 8 0b00000001 = some .encHdr ∧ decodeTableWord 8 0b00000010 = some .decHdr ∧
    decodeTableWord 8 0b00000011 = some .encMsg ∧ decodeTableWord 8 0b00000100 = some .decMsg := by
  decide

theorem test_decode_sequencer_words :
    decodeTableWord 8 0b00000101 = some .send ∧ decodeTableWord 8 0b00000110 = some .recv := by
  decide

theorem test_decode_unassigned_words :
    decodeTableWord 8 0b00000000 = none ∧ decodeTableWord 8 0b00000111 = none ∧ decodeTableWord 8 0b11111111 = none := by
  decide

theorem test_decode_header_frame :
    decodeTableWord 256 0xffffffffffffffff01020304051e000102030405060708090a0b0c0d0e0f089d =
      some (.headerFrame 0x01020304 0x05 0x1e 0x000102030405060708090a0b0c0d0e0f 0x089d) := by
  decide +kernel

theorem test_decode_message_frame :
    decodeTableWord 256 0x6a3e56546dea95e0e2bf5ec244830072000102030405060708090a0b0c0d48d0 =
      some (.messageFrame 0x6a3e56546dea95e0e2bf5ec244830072 0x000102030405060708090a0b0c0d48d0) := by
  decide +kernel

/-! ### States for one step each -/

/-- `K` of 95_test_vectors.md. -/
def key : Key := 0x2b7e151628aed2a6abf7158809cf4f3c

/-- `IV0`. -/
def iv0 : Iv := 0x000102030405060708090a0b0c0d0e0f

/-- `PA`, thirty bytes 0x41. -/
def payloadA : Payload := 0x414141414141414141414141414141414141414141414141414141414141

/-- The V1.1 frame under TOY. -/
def headerV11 : Frame := 0xffffffffffffffff01020304051e000102030405060708090a0b0c0d0e0f089d

/-- The V3.1 frame under TOY. -/
def messageV31 : Frame := 0x6a3e56546dea95e0e2bf5ec244830072000102030405060708090a0b0c0d48d0

/-- A frame without the marker. -/
def noise : Frame := 0x01

/-- An idle block after reset with its registers written, under TOY. -/
def idle : State :=
  { State.reset with
    conf := ⟨0xA1, 0xB2, key, 0, key, iv0, 3⟩
    codec := ⟨0x01020304, 0x05, 0x1e, iv0, headerV11, payloadA⟩
    tx := ⟨payloadA, 0x05, 0x1e⟩
    stage := ⟨0, 0, 0, 0, false⟩
    unwritten := []
    env := { Env.quiet with suite := .toy } }

/-- The same with host inputs. -/
def withInputs (l : List Input) (s : State) : State := { s with env := { s.env with inputs := l } }

/-- The same with Transport's and the nonce source's answers. -/
def withAnswers (sends : List SendAnswer) (polls : List (Option Frame)) (s : State) : State :=
  { s with env := { s.env with nonces := [(0x01020304, iv0)], sendAnswers := sends, pollAnswers := polls } }

/-- SEND running. -/
def sending (t : TxState) (se : Session) : State := { idle with running := some .send, txState := t, sess := se }

/-- SEND's session. -/
def sendSession : Session := ⟨true, .initiator, 0x01020304, iv0⟩

/-- RECV running, with a frame in RXF. -/
def receiving (x : RxState) (f : Frame) : State :=
  { idle with running := some .recv, rxState := x, stage := { idle.stage with rxf := f } }

/-- RECV running in `AWAITING_MESSAGE` with a frame held or not. -/
def awaiting (f : Frame) (held : Bool) (counter : BitVec 32) : State :=
  { idle with
    running := some .recv
    rxState := .awaitingMessage
    sess := ⟨true, .responder, 0x01020304, iv0⟩
    rxTmoCnt := counter
    stage := ⟨0, f, 0x05, 0x1e, held⟩ }

/-- What a step left, of one view of the state. -/
def seen {α : Type} (view : State → α) (o : Out) : Option α :=
  match o with
  | .next t => some (view t)
  | .fault _ => none
  | .refused _ => none

/-! ### The codec commands (V1 to V4) -/

/-- V1.1: FB, STATUS. -/
theorem test_enc_hdr_toy : seen (fun t => (t.codec.fb, t.statusWord)) (exec .encHdr idle) = some (headerV11, 0x0100) := by
  decide +kernel

/-- V1.1 to V1.3 under REF, and V1.2, V1.3 under TOY. -/
theorem test_enc_hdr_vectors :
    encodeHeader .ref 0x01020304 0x05 0x1e iv0 = 0xffffffffffffffff01020304051e000102030405060708090a0b0c0d0e0f1972 ∧
    encodeHeader .ref 0 0 0 0 = 0xffffffffffffffff00000000000000000000000000000000000000000000735b ∧
    encodeHeader .toy 0 0 0 0 = 0xffffffffffffffff0000000000000000000000000000000000000000000007f8 ∧
    encodeHeader .toy 0xffffffff 0xff 0xff (BitVec.allOnes 128) =
      0xffffffffffffffffffffffffffffffffffffffffffffffffffffffffffff1de2 := by
  decide +kernel

/-- V2.1 (STATUS 0x7100), V2.4 (fields written although the checksum fails). -/
theorem test_dec_hdr_fields :
    seen (fun t => (t.statusWord, t.codec.corr)) (exec .decHdr idle) = some (0x7100, 0x01020304) ∧
    seen (fun t => (t.statusWord, t.codec.corr)) (exec .decHdr { idle with codec := { idle.codec with
      fb := 0xffffffffffffffff00020304051e000102030405060708090a0b0c0d0e0f089d } }) = some (0x1100, 0x00020304) := by
  decide +kernel

/-- V2.2: byte 0 bit 0 flipped, the fields kept, the flags cleared. -/
theorem test_dec_hdr_marker : seen (fun t => (t.statusWord, t.codec.corr, t.codec.iv)) (exec .decHdr { idle with
      flags := ⟨true, true, true, true⟩
      codec := ⟨0xAABBCCDD, 0, 0, 7, 0xfeffffffffffffff01020304051e000102030405060708090a0b0c0d0e0f089d, 0⟩ }) =
    some (0x8100, 0xAABBCCDD, 7) := by
  decide +kernel

/-- V3.1 under TOY. -/
theorem test_enc_msg_toy : seen (fun t => (t.codec.fb, t.statusWord)) (exec .encMsg idle) = some (messageV31, 0x0100) := by
  decide +kernel

/-- V3.1 and V3.2 under REF, V3.3 under TOY. -/
theorem test_enc_msg_vectors :
    encodeMessage .ref payloadA key iv0 = 0xab74350f2f19b4ea4de050762e12dbc11cbe6451ae548fb8e5e8e263736ade5c ∧
    encodeMessage .ref 0 0 0 = 0x66e94bd4ef8a2c3b884cfa59ca342b2ef44a9ed17b9525a71b3d4d028ed910fb ∧
    encodeMessage .toy 0x000102030405060708090a0b0c0d0e0f101112131415161718191a1b1c1d key iv0 =
      0x2b7e151628aed2a6abf7158809cf4f3c101112131415161718191a1b1c1d01b3 := by
  decide +kernel

/-- V4.1 and V4.2 (PB written although the check fails), under TOY. -/
theorem test_dec_msg_toy :
    seen (fun t => (t.codec.pb, t.statusWord)) (exec .decMsg { idle with codec := ⟨0, 0, 0, iv0, messageV31, 0⟩ }) =
      some (payloadA, 0x8100) ∧
    seen (fun t => (t.codec.pb, t.statusWord)) (exec .decMsg { idle with codec := ⟨0, 0, 0, iv0,
        0x6b3e56546dea95e0e2bf5ec244830072000102030405060708090a0b0c0d48d0, 0⟩ }) =
      some (0x404141414141414141414141414141414041414141414141414141414141, 0x0100) := by
  decide +kernel

/-- V4.1 and V4.7 under REF. -/
theorem test_dec_msg_ref :
    decodeMessage .ref 0xab74350f2f19b4ea4de050762e12dbc11cbe6451ae548fb8e5e8e263736ade5c key iv0 = (payloadA, true) ∧
    decodeMessage .ref 0xab74350f2f19b4ea4de050762e12dbc11cbe6451ae548fb8e5e8e263736ade5c
        0x2b7e151628aed2a6abf7158809cf4f3d iv0 =
      (0x20ea5269ecfa8e148c857d75a62f7cb388644b738815a7ca5d008677e618, false) := by
  decide +kernel

/-! ### SEND (V5) -/

/-- V5.1: STATUS after T0 to T4. -/
theorem test_send_status :
    seen State.statusWord (step (withInputs [.write 0x01 0x05] idle)) = some 0x0001 ∧
    seen State.statusWord (step (withAnswers [] [] (sending .ready Session.closed))) = some 0x0041 ∧
    seen State.statusWord (step (withAnswers [.ok] [] (sending .ready sendSession))) = some 0x0043 ∧
    seen State.statusWord (step (withAnswers [.ok] [] (sending .headerSent sendSession))) = some 0x0045 ∧
    seen State.statusWord (step (sending .messageSent sendSession)) = some 0x0106 := by
  decide +kernel

/-- V5.3: the message frame refused, handed to `DEST_ADDR`. -/
theorem test_send_failure :
    seen (fun t => (t.statusWord, t.env.sent)) (step (withAnswers [.fail] [] (sending .headerSent sendSession))) =
      some (0x0602, [⟨0xB2, messageV31, .fail⟩]) := by
  decide +kernel

/-! ### RECV and its frames (V6) -/

/-- V6.1, V6.4, V6.6: STATUS after V0, V1 and V3, and the counter at 1 and at 0. -/
theorem test_recv_status :
    seen State.statusWord (step (withInputs [.write 0x01 0x06] idle)) = some 0x0001 ∧
    seen State.statusWord (step (withAnswers [] [none] (receiving .idle 0))) = some 0x0200 ∧
    seen State.statusWord (step (withAnswers [] [some headerV11] (receiving .idle 0))) = some 0x0009 ∧
    seen (fun t => (t.statusWord, t.rxTmoCnt)) (step (receiving .headerValid headerV11)) = some (0x00d9, 3) ∧
    seen (fun t => (t.statusWord, t.rxTmoCnt)) (step (withAnswers [] [none] (awaiting 0 false 1))) = some (0x00d9, 0) ∧
    seen State.statusWord (step (withAnswers [] [some messageV31] (awaiting 0 false 0))) = some 0x0528 := by
  decide +kernel

/-- V6.4, V6.3 and V6.8: a header held for judging, whole, damaged, and where a message is due. -/
theorem test_header_frame :
    seen State.statusWord (step (receiving .awaitingHeader headerV11)) = some 0x0011 ∧
    seen State.statusWord (step (receiving .awaitingHeader (headerV11 ^^^ 1))) = some 0x0328 ∧
    seen State.statusWord (step (awaiting headerV11 true 3)) = some 0x0428 := by
  decide +kernel

/-- V6.4 and V7.9: a message delivered, and where a header is due counted, the counter wrapping. -/
theorem test_message_frame :
    seen (fun t => (t.statusWord, t.rx)) (step (awaiting messageV31 true 3)) =
      some (0x0120, ⟨payloadA, 0x01020304, 0x05, 0x1e⟩) ∧
    seen (fun t => (t.statusWord, t.malformedCnt)) (step { receiving .awaitingHeader messageV31 with
      malformedCnt := 0xffffffff }) = some (0x0200, 0) := by
  decide +kernel

/-! ### The host port (V7) -/

/-- V7.1, V7.2, V7.4, V7.6. -/
theorem test_command_port :
    seen State.statusWord (step (withInputs [.write 0x01 0x00] idle)) = some 0x0700 ∧
    seen State.statusWord (step (withInputs [.write 0x01 0xff] idle)) = some 0x0700 ∧
    seen State.statusWord (step (withInputs [.write 0x01 0x05] (awaiting 0 false 3))) = some 0x00d9 ∧
    seen State.statusWord (step (withInputs [.write 0x01 0x00] (awaiting 0 false 3))) = some 0x00d9 := by
  decide +kernel

/-- V7.5, V7.7, V7.8. -/
theorem test_register_port :
    seen (fun t => t.conf.rxTimeout) (step (withInputs [.write 0x0E 0] (awaiting 0 false 3))) = some 3 ∧
    seen (fun t => t.conf.rxTimeout) (step (withInputs [.write 0x0E 0x10] idle)) = some 0x10 ∧
    seen State.statusWord (step (withInputs [.write 0x00 0xffffffff] idle)) = some 0 ∧
    seen (fun t => t.env.reads) (step (withInputs [.read 0x3f] idle)) = some [⟨0x3f, 0⟩] := by
  decide +kernel

/-- R41 with R10's numbers: what reads of the nine read-only registers return, each from its own place (STATUS as V6.4 has
it after V3). -/
theorem test_read_only_registers :
    let s : State := { awaiting 0 false 2 with malformedCnt := 7, rx := ⟨payloadA, 0x0A0B0C0D, 0x11, 0x22⟩ }
    ([0x00, 0x02, 0x03, 0x20, 0x21, 0x22, 0x23, 0x28, 0x29].map fun n =>
        seen (fun t => t.env.reads.map ReadRecord.value) (step (withInputs [.read n] s))) =
      [0x00d9, 7, 2, payloadA.setWidth 256, 0x0A0B0C0D, 0x11, 0x22, 0x01020304, iv0.setWidth 256].map fun v => some [v] := by
  decide +kernel

/-! ### Launches and ends (R162, R163, R169) -/

/-- R163: a command launched after reset with nothing written goes on, undetected, and is recorded; DEC_HDR is recorded
without FB written (its row) and not with it; TX_LEN alone unwritten is enough for SEND; a RECV that finds no frame ends as ever. -/
theorem test_unready_launch :
    ([(0x01, .encHdr), (0x03, .encMsg), (0x04, .decMsg), (0x05, .send), (0x06, .recv)].all
      fun (w, c) => seen (fun t => t.unreadyLaunches) (step (withInputs [.write 0x01 w] State.reset)) == some [c]) = true ∧
    ([([.pb, .localKey], []), ([.fb], [.decHdr])].all fun (u, l) =>
      seen (fun t => (t.outcome, t.unreadyLaunches)) (step (withInputs [.write 0x01 0x02] { idle with unwritten := u })) ==
        some (.ok, l)) = true ∧
    seen (fun t => (t.running, t.unreadyLaunches)) (step (withInputs [.write 0x01 0x05] { idle with
      unwritten := [.txLen] })) = some (some .send, [.send]) ∧
    seen (fun t => t.outcome) (step (withAnswers [] [none] { receiving .idle 0 with unwritten := [.localKey] })) =
      some .noMessage := by
  decide +kernel

/-- R163: what an unready codec command writes is no defined value, so a command that reads it is not ready either, until
the host writes it; OUTCOME is OK (R91, R93, R101, R103) and the input registers of the row stay as they were. -/
theorem test_unready_result :
    ([(Instr.encHdr, Reg.fCorr, [Reg.fCorr, .fb]), (.decHdr, .fb, [.fCorr, .fType, .fLen, .fIv, .fb]),
      (.encMsg, .destKey, [.destKey, .fb]), (.decMsg, .fIv, [.fIv, .pb])].all fun (i, r, l) =>
        seen (fun t => (t.unwritten, t.outcome, t.conf == idle.conf, t.tx == idle.tx)) (exec i { idle with unwritten := [r] }) ==
          some (l, .ok, true, true)) = true ∧
    seen (launchReady .decHdr) (exec .encHdr { idle with unwritten := [.fCorr] }) = some false ∧
    seen (launchReady .decHdr) (exec .encHdr idle) = some true ∧
    launchReady .decHdr { idle with unwritten := [Reg.fCorr, .fb] } = false ∧
    seen (launchReady .decHdr) (step (withInputs [.write 0x14 7] { idle with unwritten := [.fCorr, .fb] })) = some true := by
  decide +kernel

/-- R162, R163: the row is written one register at a time (DEC_MSG: FB, LOCAL_KEY, and F_IV by the host or by a DEC_HDR whose
marker matched); from reset, `withFetchWord` runs each command first. -/
theorem test_launch_ready :
    launchReady .decMsg { idle with unwritten := [.fIv] } = false ∧
    seen (launchReady .decMsg) (exec .decHdr { idle with unwritten := [.fIv] }) = some true ∧
    seen (launchReady .decMsg) (step (withInputs [.write 0x13 7] { idle with unwritten := [.fIv] })) = some true ∧
    ([1, 2, 3, 4, 5, 6].all fun w => (seen (fun _ => ()) (step (State.reset.withFetchWord 8 w))).isSome) = true := by
  decide +kernel

/-- R169: a run has ended with BUSY 0 and no access to come; a pending CMD write, a pending read or a running command
makes it not ended. -/
theorem test_run_ended :
    ended idle = true ∧ ended (withInputs [.pass] idle) = true ∧ ended (withInputs [.write 0x01 0x05] idle) = false ∧
    ended (withInputs [.pass, .read 0x00] idle) = false ∧ ended (sending .messageSent sendSession) = false := by
  decide

/-! ### Witnesses: each statement's hypotheses, met together, at boundary values -/

/-- DecodeOfEncodeIsTheInstruction, in each space; the message frame misses the marker by its lowest bit. -/
theorem test_witness_DecodeOfEncode :
    Instr.recv.wellFormed .command = true ∧ (Instr.headerFrame 0 0 0 0 0).wellFormed .firstFrame = true ∧
    (Instr.messageFrame 0xFFFFFFFFFFFFFFFE0000000000000000 0).wellFormed .firstFrame = true ∧
    (Instr.messageFrame 0xFFFFFFFFFFFFFFFF0000000000000000 0).wellFormed .nextFrame = true := by
  decide

/-- EveryDecodedWordIsAnEncoding. -/
theorem test_witness_EveryDecodedWord :
    decode .command [0x01] = .ok (.encHdr, []) ∧ decode .command [0x06, 0x00] = .ok (.recv, [0x00]) := by
  decide

/-- HeaderTamper: the marker changed, a field changed, the checksum changed by its last bit. -/
theorem test_witness_HeaderTamper :
    let h := encodeHeader .toy 0x01020304 0x05 0x1e iv0
    frameMarker (h ^^^ (1#256 <<< 192)) ≠ frameMarker h ∧
    (frameMarker (h ^^^ (1#256 <<< 160)) = frameMarker h ∧ frameCksum (h ^^^ (1#256 <<< 160)) = frameCksum h) ∧
    (frameBody (h ^^^ 1) = frameBody h ∧ h ^^^ 1 ≠ h) := by
  decide +kernel

/-- ResetInputEndsEverything and UnwrittenRegistersAreTracked: the reset input while SEND runs. -/
theorem test_witness_ResetInput :
    (withInputs [.reset] (sending .headerSent sendSession)).env.inputs = .reset :: [] := rfl

/-- HostReadHasNoSideEffect: the first and last numbers of the table, one past it, CMD; idle and busy. -/
theorem test_witness_HostRead :
    (withInputs [.read 0x00] (awaiting 0 false 3)).env.inputs = .read 0x00 :: [] ∧
    (withInputs [.read 0x29] idle).env.inputs = .read 0x29 :: [] ∧
    (withInputs [.read 0x2A] idle).env.inputs = .read 0x2A :: [] ∧
    (withInputs [.read 0x01] idle).env.inputs = .read 0x01 :: [] ∧
    Reg.status.number = 0x00 ∧ Reg.cmd.number = 0x01 ∧ Reg.sessIv.number = 0x29 := by
  decide

/-- HostWriteWhileIdle and UnwrittenRegistersAreTracked: the first and last writable numbers, two read-only ones, two not
in the table, CMD. -/
theorem test_witness_HostWrite :
    (withInputs [.write 0x08 1] idle).running = none ∧
    (Reg.localAddr.number = 0x08 ∧ Reg.localAddr.writable = true) ∧ (Reg.txLen.number = 0x1A ∧ Reg.txLen.writable = true) ∧
    (Reg.status.number = 0x00 ∧ Reg.status.writable = false ∧ Reg.status ≠ .cmd) ∧
    (Reg.sessIv.number = 0x29 ∧ Reg.sessIv.writable = false ∧ Reg.sessIv ≠ .cmd) ∧
    (Reg.all.all fun r => r.number ≠ 0x04 && r.number ≠ 0x2A) = true ∧
    Reg.cmd.number = 0x01 ∧ Reg.cmd.writable = false := by
  decide

/-- UnwrittenRegistersAreTracked: a step that launches with its row written, one with a register of it unwritten, and a
reset, from states of the invariant; NothingIsStuck at each. -/
theorem test_witness_launch :
    let s := withInputs [.write 0x01 0x06] { idle with unwritten := [.localAddr] }
    let u := withInputs [.write 0x01 0x06] { idle with unwritten := [.rxTimeout] }
    let r := withInputs [.reset] { receiving .idle 0 with unwritten := [.rxTimeout], unreadyLaunches := [.recv] }
    (inv s = true ∧ unreadyLaunch s = false ∧ seen (fun t => t.unreadyLaunches) (step s) = some []) ∧
    (inv u = true ∧ unreadyLaunch u = true ∧ seen (fun t => t.unreadyLaunches) (step u) = some [.recv] ∧
      seen inv (step u) = some true) ∧
    (inv r = true ∧ unreadyLaunch r = false ∧ seen (fun t => t.unreadyLaunches) (step r) = some []) := by
  decide +kernel

/-- UnwrittenRegistersAreTracked: for each command a launch with one register of its row unwritten. -/
theorem test_witness_unready :
    ([(Instr.encHdr, Reg.fType), (.decHdr, .fb), (.encMsg, .pb), (.decMsg, .localKey), (.send, .destAddr),
      (.recv, .rxTimeout)].all fun (i, r) =>
        let s : State := { idle with unwritten := [r] }
        s.running == none && !launchReady i s && (seen (fun _ => ()) (exec i s)).isSome) = true := by
  decide +kernel

/-- UnreadConfigurationHasNoInfluence, its second clause: all written but one register that is outside the row, for a
command that leaves it unwritten and for one that writes it. -/
theorem test_witness_unread :
    let s : State := { idle with unwritten := [.fb] }
    (launchReady .recv s = true ∧ Reg.fb ∈ s.unwritten ∧
      seen (fun t => decide (Reg.fb ∈ t.unwritten)) (exec .recv s) = some true) ∧
    (launchReady .encHdr s = true ∧ seen (fun t => decide (Reg.fb ∈ t.unwritten)) (exec .encHdr s) = some false) := by
  decide +kernel

/-- IdleBlockKeepsItsState: states that have ended, and steps over which a command ends, by completion and by reset. -/
theorem test_witness_ended :
    ended idle = true ∧ ended (withInputs [.pass] idle) = true ∧
    seen (commandEnds (sending .messageSent sendSession)) (step (sending .messageSent sendSession)) = some true ∧
    (let s := withInputs [.reset] (awaiting 0 false 3)
     seen (commandEnds s) (step s) = some true) := by
  decide +kernel

/-- HostWriteWhileBusyIsLost. -/
theorem test_witness_HostWriteBusy :
    (withInputs [.write 0x01 0x05] (awaiting 0 false 3)).env.inputs = .write 0x01 0x05 :: [] ∧
    (withInputs [.write 0x01 0x05] (awaiting 0 false 3)).running ≠ none := by
  decide

/-- IllegalCommandChangesOnlyOutcome: 0x00, 0x07 and 0xFF. -/
theorem test_witness_IllegalCommand :
    (withInputs [.write 0x01 ((0x07 : Byte).setWidth 256)] idle).env.inputs = .write 0x01 ((0x07 : Byte).setWidth 256) :: [] ∧
    idle.running = none ∧ (0x00 : Byte) = 0x00 ∧ 0x07 ≤ (0x07 : Byte).toNat ∧ 0x07 ≤ (0xFF : Byte).toNat := by
  decide

/-- StepRunsTheDecodedCommand. -/
theorem test_witness_StepRunsCommand :
    let s := withInputs [.write 0x01 ((0x06 : Byte).setWidth 256)] idle
    s.env.inputs = .write 0x01 ((0x06 : Byte).setWidth 256) :: [] ∧ s.running = none ∧
    decode .command [0x06] = .ok (.recv, []) := by
  decide

/-- StepRunsTheHeldFrame: a first frame with no input pending, a next frame with `pass` pending. -/
theorem test_witness_StepRunsHeldFrame :
    (let s := receiving .awaitingHeader headerV11
     s.env.inputs.head? = none ∧ s.running = some .recv ∧ s.rxState = .awaitingHeader ∧
     decode .firstFrame (toBytes 32 s.stage.rxf) =
       .ok (.headerFrame 0x01020304 0x05 0x1e iv0 0x089d, [])) ∧
    (let s := withInputs [.pass] (awaiting messageV31 true 3)
     s.env.inputs.head? = some .pass ∧ s.running = some .recv ∧ s.rxState = .awaitingMessage ∧ s.stage.rxHeld = true ∧
     decode .nextFrame (toBytes 32 s.stage.rxf) =
       .ok (.messageFrame 0x6a3e56546dea95e0e2bf5ec244830072 0x000102030405060708090a0b0c0d48d0, [])) := by
  decide +kernel

/-- StepRunsTheRunningCommand: SEND, and RECV awaiting a message with none held. -/
theorem test_witness_StepRunsRunning :
    ((sending .ready sendSession).env.inputs.head? = none ∧ (sending .ready sendSession).running = some .send ∧
      Cmd.send ≠ .recv) ∧
    ((awaiting 0 false 0).running = some .recv ∧ (awaiting 0 false 0).rxState ≠ .awaitingHeader ∧
      (awaiting 0 false 0).stage.rxHeld = false) := by
  decide

/-- RecvJudgesTheHeldFrame: both positions. -/
theorem test_witness_RecvJudges :
    ((receiving .awaitingHeader noise).running = some .recv ∧ (receiving .awaitingHeader noise).rxState = .awaitingHeader) ∧
    ((awaiting noise true 3).running = some .recv ∧ (awaiting noise true 3).rxState = .awaitingMessage ∧
      (awaiting noise true 3).stage.rxHeld = true) := by
  decide

/-- IdleBlockKeepsItsState, and every statement whose hypothesis is that no command runs: EncHdrResult, DecHdrResult and
UnwrittenRegistersAreTracked (with and without the marker), EncMsgResult, DecMsgResult, SendAcceptance, RecvAcceptance. -/
theorem test_witness_idle :
    idle.running = none ∧ idle.env.inputs = [] ∧
    ([Instr.encHdr, .decHdr, .encMsg, .decMsg, .send, .recv].all fun i => launchReady i idle) = true ∧
    frameMarker idle.codec.fb = 0xFFFFFFFFFFFFFFFF ∧
    frameMarker (headerV11 ^^^ (1#256 <<< 255)) ≠ 0xFFFFFFFFFFFFFFFF := by
  decide +kernel

/-- CommandIgnoredWhileAnotherRuns. -/
theorem test_witness_ignored : (sending .ready sendSession).running = some .send ∧ Cmd.encHdr ≠ .send := by decide

/-- SendDrawsItsSession, SendHeaderFrame, SendMessageFrame, SendCompletion, each answer; UnwrittenRegistersAreTracked, a SEND
launched unready. -/
theorem test_witness_send :
    (let s := withAnswers [] [] (sending .ready Session.closed)
     s.running = some .send ∧ s.txState = .ready ∧ s.sess.valid = false ∧ s.env.nonces = (0x01020304, iv0) :: []) ∧
    (let s := withAnswers [.ok] [] (sending .ready sendSession)
     s.txState = .ready ∧ s.sess.valid = true ∧ s.env.sendAnswers = .ok :: []) ∧
    (withAnswers [.fail] [] (sending .ready sendSession)).env.sendAnswers = .fail :: [] ∧
    (let s := withAnswers [.ok] [] (sending .headerSent sendSession)
     s.running = some .send ∧ s.txState = .headerSent ∧ s.env.sendAnswers = .ok :: []) ∧
    (withAnswers [.fail] [] (sending .headerSent sendSession)).env.sendAnswers = .fail :: [] ∧
    ((sending .messageSent sendSession).running = some .send ∧ (sending .messageSent sendSession).txState = .messageSent) ∧
    (let s := withAnswers [.fail] [] { sending .headerSent sendSession with unwritten := [.txPayload] }
     s.running = some .send ∧ launchReady .send s = false ∧ s.txState = .headerSent ∧ s.env.sendAnswers = .fail :: []) := by
  decide

/-- SendRunsToComplete and SendFailureTellsWhichFrame, each list of answers. -/
theorem test_witness_send_runs :
    let s := withInputs [.write 0x01 0x05] (withAnswers [.ok, .ok] [] idle)
    inv s = true ∧ s.running = none ∧ launchReady .send s = true ∧ s.env.inputs = [.write 0x01 0x05] ∧
    s.env.nonces = (0x01020304, iv0) :: [] ∧
    s.env.sendAnswers = .ok :: .ok :: [] ∧
    inv (withInputs [.write 0x01 0x05] (withAnswers [.fail] [] idle)) = true ∧
    inv (withInputs [.write 0x01 0x05] (withAnswers [.ok, .fail] [] idle)) = true := by
  decide

/-- R163's premise at each position of SendDrawsItsSession, SendHeaderFrame, SendMessageFrame, SendCompletion and
SendTerminates, and of RecvIdlePoll, HeaderFrameIsJudged, MalformedFrameIsCounted, RecvOpensItsSession, RecvBoundedWait,
MessageFrameIsJudged, TimeoutAfterExactlyTheBudget and RecvTerminates: the states their witnesses name. -/
theorem test_witness_running_ready :
    ([sending .ready Session.closed, sending .ready sendSession, sending .headerSent sendSession,
      sending .messageSent sendSession].all (launchReady .send)) = true ∧
    ([receiving .idle 0, receiving .awaitingHeader headerV11, receiving .headerValid headerV11, awaiting 0 false 0,
      awaiting 0 false 2, awaiting messageV31 true 3].all (launchReady .recv)) = true := by
  decide

/-- UnwrittenRegistersAreTracked, a RECV launched unready: opening its session, with a message held, and (with a SEND) in
positions that use no register of the row. -/
theorem test_witness_running_unready :
    (let s : State := { receiving .headerValid headerV11 with unwritten := [.rxTimeout] }
     s.running = some .recv ∧ launchReady .recv s = false ∧ s.rxState = .headerValid ∧
     seen (fun t => (t.rxState, t.sess.corr)) (exec .recv s) = some (.awaitingMessage, 0x01020304)) ∧
    (let s : State := { awaiting messageV31 true 3 with unwritten := [.localKey] }
     s.running = some .recv ∧ launchReady .recv s = false ∧ s.rxState = .awaitingMessage ∧ s.stage.rxHeld = true) ∧
    (let s : State := { sending .ready Session.closed with unwritten := [.destAddr] }
     s.running = some .send ∧ s.txState ≠ .headerSent ∧ s.sess.valid = false) ∧
    (let s : State := { awaiting 0 false 1 with unwritten := [.rxTimeout] }
     s.running = some .recv ∧ s.rxState ≠ .headerValid ∧ s.stage.rxHeld = false) := by
  decide +kernel

/-- RecvIdlePoll, both answers; RecvOpensItsSession. -/
theorem test_witness_recv_poll :
    (let s := withAnswers [] [none] (receiving .idle 0)
     s.running = some .recv ∧ s.rxState = .idle ∧ s.env.pollAnswers = none :: []) ∧
    (withAnswers [] [some noise] (receiving .idle 0)).env.pollAnswers = some noise :: [] ∧
    (receiving .headerValid headerV11).running = some .recv ∧ (receiving .headerValid headerV11).rxState = .headerValid := by
  decide

/-- HeaderFrameIsJudged, a right and a wrong checksum; MalformedFrameIsCounted, the marker missed by one bit and met. -/
theorem test_witness_first_frame :
    let s := receiving .awaitingHeader headerV11
    s.running = some .recv ∧ s.rxState = .awaitingHeader ∧
    0x089d = s.env.suite.ck16 (headerBody 0x01020304 0x05 0x1e iv0) ∧
    0x089c ≠ s.env.suite.ck16 (headerBody 0x01020304 0x05 0x1e iv0) ∧
    (0x7FFFFFFFFFFFFFFF0000000000000000 : BitVec 128).extractLsb' 64 64 ≠ 0xFFFFFFFFFFFFFFFF ∧
    (0xFFFFFFFFFFFFFFFF0000000000000000 : BitVec 128).extractLsb' 64 64 = 0xFFFFFFFFFFFFFFFF := by
  decide +kernel

/-- RecvBoundedWait, its three clauses, the counter at 0 and at 1. -/
theorem test_witness_wait :
    (let s := awaiting 0 false 0
     s.running = some .recv ∧ s.rxState = .awaitingMessage ∧ s.stage.rxHeld = false ∧ s.rxTmoCnt = 0) ∧
    (let s := withAnswers [] [none] (awaiting 0 false 1)
     s.rxTmoCnt ≠ 0 ∧ s.env.pollAnswers = none :: []) ∧
    (withAnswers [] [some noise] (awaiting 0 false 1)).env.pollAnswers = some noise :: [] := by
  decide

/-- DecodersReadTheBytes: with the marker, and without it by one bit. -/
theorem test_witness_Decoders :
    (toBytes 32 headerV11).take 8 = List.replicate 8 0xFF ∧
    (toBytes 32 (headerV11 ^^^ (1#256 <<< 192))).take 8 ≠ List.replicate 8 0xFF := by
  decide +kernel

/-- MessageFrameIsJudged, a good and a bad block; SecondHeaderIsTakenAsMessage, whose block is bad. -/
theorem test_witness_next_frame :
    let s := awaiting messageV31 true 3
    let good := s.env.suite.cbcDec (messageBits 0x6a3e56546dea95e0e2bf5ec244830072 0x000102030405060708090a0b0c0d48d0)
      s.conf.localKey s.sess.iv
    let bad := s.env.suite.cbcDec (messageBits 0x6a3e56546dea95e0e2bf5ec244830072 0x000102030405060708090a0b0c0d48d1)
      s.conf.localKey s.sess.iv
    let second := s.env.suite.cbcDec (headerBits 0x01020304 0x05 0x1e iv0 0x089d) s.conf.localKey s.sess.iv
    s.running = some .recv ∧ s.rxState = .awaitingMessage ∧ s.stage.rxHeld = true ∧
    launchReady .recv s = true ∧
    s.env.suite.ck16 (frameBody good) = frameCksum good ∧ s.env.suite.ck16 (frameBody bad) ≠ frameCksum bad ∧
    s.env.suite.ck16 (frameBody second) ≠ frameCksum second := by
  decide +kernel

/-- UnheldFrameChangesNothing: no RECV running; RECV before its first frame; a message awaited and none held. -/
theorem test_witness_unheld :
    (Instr.headerFrame 0 0 0 0 0).wellFormed .firstFrame = true ∧ idle.running ≠ some .recv ∧
    ((receiving .idle 0).rxState ≠ .awaitingHeader ∧ (receiving .idle 0).rxState ≠ .awaitingMessage) ∧
    ((awaiting 0 false 3).rxState ≠ .awaitingHeader ∧ (awaiting 0 false 3).stage.rxHeld = false) := by
  decide

/-- SequencerWaitsForAnAnswer, each collaborator. -/
theorem test_witness_waits :
    (let s := sending .ready Session.closed
     s.running = some .send ∧ s.txState = .ready ∧ s.sess.valid = false ∧ s.env.nonces = []) ∧
    ((sending .ready sendSession).sess.valid = true ∧ (sending .ready sendSession).env.sendAnswers = []) ∧
    ((sending .headerSent sendSession).txState = .headerSent ∧ (sending .headerSent sendSession).env.sendAnswers = []) ∧
    ((receiving .idle 0).running = some .recv ∧ (receiving .idle 0).rxState = .idle ∧
      (receiving .idle 0).env.pollAnswers = []) ∧
    ((awaiting 0 false 1).rxState = .awaitingMessage ∧ (awaiting 0 false 1).stage.rxHeld = false ∧
      (awaiting 0 false 1).rxTmoCnt ≠ 0 ∧ (awaiting 0 false 1).env.pollAnswers = []) := by
  decide

/-- NoTransitionIsAFault, its three positions. -/
theorem test_witness_fault :
    ((sending .complete Session.closed).running = some .send ∧ (sending .complete Session.closed).txState = .complete) ∧
    ((receiving .delivered 0).running = some .recv ∧ (receiving .delivered 0).rxState = .delivered) ∧
    (receiving .rejected 0).rxState = .rejected := by
  decide

/-- TimeoutAfterExactlyTheBudget: a budget of none, and of two. -/
theorem test_witness_timeout :
    (let s := awaiting 0 false 0
     s.running = some .recv ∧ s.rxState = .awaitingMessage ∧ s.stage.rxHeld = false ∧ s.env.inputs = [] ∧
     s.env.pollAnswers = List.replicate s.rxTmoCnt.toNat none ++ []) ∧
    (let s := withAnswers [] [none, none, some noise] (awaiting 0 false 2)
     s.env.inputs = [] ∧ s.env.pollAnswers = List.replicate s.rxTmoCnt.toNat none ++ [some noise]) := by
  decide

/-- Device A of EndToEndDelivery. -/
def deviceA : State := withInputs [.write 0x01 0x05] (withAnswers [.ok, .ok] [] idle)

/-- Device B of EndToEndDelivery. -/
def deviceB : State := withInputs [.write 0x01 0x06] (withAnswers [] [some headerV11, some messageV31] idle)

/-- EndToEndDelivery: the hypotheses on both devices and on A's run. -/
theorem test_witness_EndToEnd :
    inv deviceA = true ∧ deviceA.running = none ∧
    (launchReady .send deviceA = true ∧ launchReady .recv deviceB = true) ∧ deviceA.env.nonces = [(0x01020304, iv0)] ∧
    deviceA.env.sendAnswers = [.ok, .ok] ∧
    (∃ a', core.run 5 deviceA = .next a' ∧
      a'.env.sent = deviceA.env.sent ++ [⟨deviceA.conf.destAddr, headerV11, .ok⟩, ⟨deviceA.conf.destAddr, messageV31, .ok⟩]) ∧
    deviceB.running = none ∧ deviceB.env.pollAnswers = [some headerV11, some messageV31] ∧
    deviceB.env.suite = deviceA.env.suite ∧ deviceB.conf.localKey = deviceA.conf.destKey ∧ deviceB.conf.rxTimeout ≠ 0 :=
  ⟨by decide, by decide, by decide, by decide, by decide, ⟨_, rfl, by decide +kernel⟩, by decide, by decide, by decide, by decide, by decide⟩

/-- SendTerminates, at the first position and the last. -/
theorem test_witness_SendTerminates :
    (let s := withAnswers [.ok, .fail] [] (sending .ready Session.closed)
     inv s = true ∧ s.running = some .send ∧ s.env.inputs = [] ∧ s.env.nonces ≠ [] ∧ 2 ≤ s.env.sendAnswers.length) ∧
    inv (withAnswers [.ok, .ok] [] (sending .messageSent sendSession)) = true := by
  decide

/-- RecvTerminates, with the least number of answers. -/
theorem test_witness_RecvTerminates :
    let s := withAnswers [] [some headerV11, none, none, none] (receiving .idle 0)
    inv s = true ∧ s.running = some .recv ∧ s.env.inputs = [] ∧ s.conf.rxTimeout.toNat + 1 ≤ s.env.pollAnswers.length := by
  decide

/-- EveryStepKeepsTheInvariant, NothingIsStuck and IvAdoptedOnlyFromAValidHeader: a state of the invariant whose step
opens a session, as responder and as initiator. -/
theorem test_witness_invariant :
    (inv (receiving .headerValid headerV11) = true ∧
      seen (fun t => (t.sess.valid, t.sess.role)) (step (receiving .headerValid headerV11)) = some (true, .responder) ∧
      (receiving .headerValid headerV11).sess.valid = false) ∧
    (inv (sending .ready sendSession) = true ∧
      seen (fun t => t.sess.valid) (step (sending .ready sendSession)) = some true ∧
      (sending .ready sendSession).sess.valid = true) := by
  decide +kernel

/-- NoCommandWritesConfiguration, UnwrittenRegistersAreTracked, CommandsKeepEachOthersState and
UnreadConfigurationHasNoInfluence: an instruction of each clause that answers a next state. -/
theorem test_witness_next_state :
    ([Instr.encHdr, .decHdr, .encMsg, .decMsg, .send, .recv, .headerFrame 0 0 0 0 0, .messageFrame 0 0].all fun i =>
      (seen (fun _ => true) (exec i idle)).isSome) = true ∧
    (Instr.encMsg = .encMsg → idle.conf.destIv = idle.conf.destIv) ∧ Instr.send ≠ .encMsg := by
  decide +kernel

/-- PayloadDeliveredOnlyWhenValid: a step that changes the result registers, to a payload (the RECV launched ready) and to
zero. -/
theorem test_witness_payload :
    launchReady .recv (awaiting messageV31 true 3) = true ∧
    seen (fun t => t.rx == (awaiting messageV31 true 3).rx) (step (awaiting messageV31 true 3)) = some false ∧
    seen (fun t => t.rx == RxRegs.zero) (step (withInputs [.write 0x01 0x06] { idle with rx := ⟨payloadA, 1, 2, 3⟩ })) =
      some true := by
  decide +kernel

/-- MalformedCountMovesOnlyOnAMarkerMismatch: a step that moves the counter, one that does not, and reset. -/
theorem test_witness_malformed :
    seen (fun t => t.malformedCnt) (step (receiving .awaitingHeader noise)) = some 1 ∧
    seen (fun t => t.malformedCnt) (step idle) = some 0 ∧
    seen (fun t => t.malformedCnt) (step (withInputs [.reset] { idle with malformedCnt := 7 })) = some 0 := by
  decide +kernel

end Sys2Proof.Tests
end

section
/-! PROOFS. The family of 10_state.md: STATUS as the host reads it (R23) and the values after reset (R32). -/

namespace Sys2Proof.Machine

/-- A slice of STATUS is a slice of its fields in a row (R23), each at its own width. -/
theorem extractLsb'_statusWord (s : State) (start len : Nat) : s.statusWord.extractLsb' start len =
    BitVec.extractLsb' start len (0#16 ++ BitVec.ofBool s.flags.msgValid ++ BitVec.ofBool s.flags.hdrValid
      ++ BitVec.ofBool s.flags.cksumOk ++ BitVec.ofBool s.flags.markerOk ++ s.outcome.code ++ s.sess.role.code
      ++ BitVec.ofBool s.sess.valid ++ s.rxState.code ++ s.txState.code ++ BitVec.ofBool s.running.isSome) := rfl

/-- STATUS is zero after every reset (R32): no field of it is a free value. -/
@[simp] theorem afterReset_statusWord (e : Env) : (State.afterReset e).statusWord = 0 := by
  have same : (State.afterReset e).statusWord = State.reset.statusWord := rfl
  rw [same]
  decide

/-- Settles O12: each slice skips the whole fields below it (`extractLsb'_append_eq_of_le`) and is then exactly the next
field (`extractLsb'_append_eq_right`), the topmost one all that is left (`extractLsb'_eq_self`). -/
theorem statusWordLayout : Obligations.StatusWordLayout := by
  intro s
  refine ⟨rfl, ?busy, ?tx, ?rx, ?valid, ?role, ?outcome, ?marker, ?cksum, ?hdr, ?msg, ?zero, rfl, rfl, rfl, rfl⟩
  all_goals
    simp (disch := decide) only [extractLsb'_statusWord, BitVec.extractLsb'_append_eq_of_le,
      BitVec.extractLsb'_append_eq_right, BitVec.extractLsb'_eq_self, BitVec.ofNat_eq_ofNat, Nat.reduceSub]

/-- Settles O13: STATUS by `afterReset_statusWord`, the registers that are stored as R32 lists them. -/
theorem resetValues : Obligations.ResetValues :=
  ⟨afterReset_statusWord _, rfl, rfl, rfl, rfl, rfl, rfl, rfl, rfl, rfl, rfl⟩

end Sys2Proof.Machine
end

section
/-! PROOFS. The family of 20_memory.md: the host's reads (R41), and its writes while idle (R42) and while busy (R43). -/

namespace Sys2Proof.Machine

/-! ### The numbers and the access rights of the table (R10) -/

/-- The port finds exactly the register that has the number. -/
theorem ofNumber_eq_some_iff {n : Nat} {r : Reg} : Reg.ofNumber n = some r ↔ r.number = n := by
  constructor
  · intro h
    simpa using List.find?_some h
  · rintro rfl
    cases r <;> rfl

@[simp] theorem ofNumber_number (r : Reg) : Reg.ofNumber r.number = some r := ofNumber_eq_some_iff.2 rfl

/-- No two registers share a number. -/
theorem number_injective : Function.Injective Reg.number := fun r q h => by
  simpa using congrArg Reg.ofNumber h

/-- The read-write registers are those R32 leaves unspecified (R11). -/
theorem writable_iff (r : Reg) : r.writable = true ↔ r ∈ Reg.unspecified := List.contains_iff_mem

/-! ### Reading a register after a write (R41, R42) -/

section
variable (s : State)

@[simp] theorem portValue_number (r : Reg) : s.portValue r.number = s.readReg r := by
  simp [State.portValue]

/-- Taking an input, as the statements write it. -/
theorem popInput_of_cons {i : Input} {rest : List Input} (h : s.env.inputs = i :: rest) :
    s.popInput = { s with env := { s.env with inputs := rest } } := by
  simp [State.popInput, h]

@[simp] theorem popInput_readReg (r : Reg) : s.popInput.readReg r = s.readReg r := by cases r <;> rfl
@[simp] theorem popInput_portValue (n : Nat) : s.popInput.portValue n = s.portValue n := by
  simp [State.portValue]

@[simp] theorem markWritten_readReg (rs : List Reg) (r : Reg) : (s.markWritten rs).readReg r = s.readReg r := by
  cases r <;> rfl

/-- The table of what a write of `r` leaves in each register `q`: `r` itself, if it is read-write, takes the value at its
width, and every other register keeps its own. -/
theorem readReg_putReg (r q : Reg) (v : BitVec 256) : (s.putReg r v).readReg q =
    if q = r ∧ r.writable = true then (v.setWidth r.width).setWidth 256 else s.readReg q := by
  cases r <;> cases q <;> rfl

theorem readReg_writeReg_same {r : Reg} (v : BitVec 256) (hw : r.writable = true) :
    (s.writeReg r v).readReg r = (v.setWidth r.width).setWidth 256 := by
  simp [State.writeReg, readReg_putReg, hw]

theorem readReg_writeReg_of_ne {r q : Reg} (v : BitVec 256) (h : q ≠ r) :
    (s.writeReg r v).readReg q = s.readReg q := by
  simp [State.writeReg, readReg_putReg, h]

/-- The frame of a register write: the three groups of read-write registers and the record of what is written. -/
theorem writeReg_frame (r : Reg) (v : BitVec 256) :
    let t := s.writeReg r v
    t = { s with conf := t.conf, codec := t.codec, tx := t.tx, unwritten := t.unwritten } := by
  cases r <;> rfl

/-! ### The host's write (R42, R43) -/

theorem busy_iff : s.busy = true ↔ s.running ≠ none := Option.isSome_iff_ne_none

theorem hostWrite_number {r : Reg} (v : BitVec 256) (hb : s.busy = false) (hw : r.writable = true) :
    s.hostWrite r.number v = s.writeReg r v := by
  simp [State.hostWrite, hb, hw]

/-- A write is lost while busy (R43), and where no read-write register has the number (R42). -/
theorem hostWrite_ignored {n : Nat} (v : BitVec 256)
    (h : s.busy = true ∨ ∀ r : Reg, r.number = n → r.writable = false) : s.hostWrite n v = s := by
  rcases hostWrite_cases s n v with hs | ⟨r, hr, hb, hw, -⟩
  · exact hs
  · rcases h with h | h
    · simp [hb] at h
    · simp [h r (ofNumber_eq_some_iff.1 hr)] at hw

end

/-! ### The obligations -/

/-- Settles O16: a CMD write by `step_of_command`; any other is `hostWrite`, which either writes the register
(`readReg_writeReg_same`, `readReg_writeReg_of_ne`, `writeReg_frame`) or is ignored (`hostWrite_ignored`). -/
theorem hostWriteWhileIdle : Obligations.HostWriteWhileIdle := by
  intro s n v rest h hr popped
  have hpop : s.popInput = popped := popInput_of_cons s h
  have hidle : s.busy = false := by simp [State.busy, hr]
  have ignored (hcmd : n ≠ Reg.cmd.number) (hw : ∀ r : Reg, r.number = n → r.writable = false) :
      step s = .next popped := by
    rw [step_of_write s h hcmd, hostWrite_ignored _ v (.inr hw), hpop]
  refine ⟨writable_iff, ?written, ?readOnly, ?notInTable, ?command⟩
  case written =>
    rintro r rfl hw
    have hcmd : r.number ≠ Reg.cmd.number := number_injective.ne fun e => absurd (e ▸ hw) (by decide)
    refine ⟨s.popInput.writeReg r v, ?_, readReg_writeReg_same _ v hw, fun q hq => ?_, ?_⟩
    · rw [step_of_write s h hcmd, hostWrite_number s.popInput v hidle hw]
    · rw [readReg_writeReg_of_ne _ v hq, popInput_readReg]
    · exact hpop ▸ writeReg_frame s.popInput r v
  case readOnly =>
    rintro r rfl hw hne
    exact ignored (number_injective.ne hne) fun q hq => number_injective hq ▸ hw
  case notInTable =>
    intro hn
    exact ignored (hn .cmd).symm fun r hr => absurd hr (hn r)
  case command =>
    rintro rfl
    rw [← hpop]
    rcases step_of_command s h with ⟨hb, -⟩ | ⟨-, hd, hs⟩ | ⟨-, i, hd, hs⟩
    · simp [hidle] at hb
    · simp only [hs, hd]
      rfl
    · simp only [hs, hd]

/-- Settles O15: `readReg` register by register; a number of the table is that of its register, and of any other the port
reads zero. -/
theorem hostReadHasNoSideEffect : Obligations.HostReadHasNoSideEffect := by
  intro s value
  have hreg (r : Reg) : s.readReg r = value r.number := by cases r <;> rfl
  have hport (n : Nat) : s.portValue n = value n := by
    cases hn : Reg.ofNumber n with
    | some r => rw [← ofNumber_eq_some_iff.1 hn, portValue_number, hreg]
    | none =>
      -- Each number that `value` names has a register, so only its last line is left.
      simp only [State.portValue, hn, value]
      split
      iterate 26 · exact absurd hn (by decide)
      · rfl
  refine ⟨fun n rest h => ?_, hreg⟩
  rw [step_of_read s h, State.hostRead, popInput_portValue, hport, popInput_of_cons s h]

/-- Settles O17: a CMD write is tested for `BUSY` before it is decoded (R150), and any other is ignored. -/
theorem hostWriteWhileBusyIsLost : Obligations.HostWriteWhileBusyIsLost := by
  intro s n v rest h hr
  have hbusy : s.busy = true := (busy_iff s).2 hr
  rw [← popInput_of_cons s h]
  by_cases hn : n = Reg.cmd.number
  · subst hn
    rcases step_of_command s h with ⟨-, hs⟩ | ⟨hb, -⟩ | ⟨hb, -⟩
    · exact hs
    · simp [hbusy] at hb
    · simp [hbusy] at hb
  · rw [step_of_write s h hn, hostWrite_ignored s.popInput v (.inl hbusy)]

end Sys2Proof.Machine
end

section
/-! PROOFS. The family of 30_encoding.md: the command words that select no command (R78, R141). -/

namespace Sys2Proof.Machine

/-- The opcode map has no command outside 0x01 to 0x06 (R76, R78). -/
theorem decodeCommand_eq_none_iff {w : Byte} : decodeCommand w = none ↔ w = 0x00 ∨ 0x07 ≤ w.toNat := by
  revert w
  decide

/-- Settles O18: of the three answers to a CMD write (`step_of_command`), a device with no command running and a word the
decoder gives no instruction to leave the illegal command word alone. -/
theorem illegalCommandChangesOnlyOutcome : Obligations.IllegalCommandChangesOnlyOutcome := by
  intro s w rest h hr hw
  have hidle : s.busy = false := by simp [State.busy, hr]
  have hnone : decodeCommand ((w.setWidth 256).setWidth 8) = none := by
    rw [BitVec.setWidth_setWidth_of_le w (by decide), decodeCommand_eq_none_iff]
    exact hw
  rcases step_of_command s h with ⟨hb, -⟩ | ⟨-, -, hs⟩ | ⟨-, i, hd, -⟩
  · simp [hidle] at hb
  · rw [hs, popInput_of_cons s h, State.illegalCommand]
  · cases hnone.symm.trans hd

end Sys2Proof.Machine
end

section
/-! PROOFS. The family of 40_header_codec.md: the bytes of the header frame (R71, R90), what the decoders read of them
(R92, R102), and the results of ENC_HDR (R91) and DEC_HDR (R93). -/

namespace Sys2Proof

/-! ### Byte strings in a row (R5) -/

/-- The bytes of a value are those of its high part and then those of its low part. -/
theorem natToBytes_add (m n v : Nat) : natToBytes (m + n) v = natToBytes m (v / 256 ^ n) ++ natToBytes n v := by
  induction n generalizing v with
  | zero => simp [natToBytes]
  | succ n ih => simp [natToBytes, ih, Nat.div_div_eq_div_mul, pow_succ']

/-- `n` bytes hold a value modulo `256 ^ n`. -/
@[simp] theorem natToBytes_mod (n v : Nat) : natToBytes n (v % 256 ^ n) = natToBytes n v := by
  induction n generalizing v with
  | zero => rfl
  | succ n ih =>
    have low : BitVec.ofNat 8 (v % 256 ^ (n + 1)) = BitVec.ofNat 8 v :=
      BitVec.eq_of_toNat_eq (Nat.mod_mod_of_dvd v (dvd_pow_self 256 n.succ_ne_zero))
    rw [natToBytes, natToBytes, low, pow_succ', Nat.mod_mul_right_div_self, ih]

/-- The bytes of a concatenation; `x` is `a ++ b` at the width `8 * (m + n)`. -/
theorem toBytes_append {m n : Nat} {x : BitVec (8 * (m + n))} {a : BitVec (8 * m)} {b : BitVec (8 * n)}
    (h : x.toNat = (a ++ b).toNat) : toBytes (m + n) x = toBytes m a ++ toBytes n b := by
  have hb : b.toNat < 256 ^ n := by simpa [pow_mul] using b.isLt
  have hx : x.toNat = 256 ^ n * a.toNat + b.toNat := by
    rw [h, BitVec.toNat_append, ← Nat.shiftLeft_add_eq_or_of_lt b.isLt, Nat.shiftLeft_eq, pow_mul]
    exact congrArg (· + _) (Nat.mul_comm _ _)
  rw [toBytes, natToBytes_add, ← natToBytes_mod n, hx, Nat.mul_add_div (by positivity), Nat.div_eq_of_lt hb,
    Nat.mul_add_mod, Nat.mod_eq_of_lt hb]
  rfl

/-- The `j` bytes after the first `i` are a slice of the bits, `k` bytes above the least significant end (R5, R74). -/
theorem take_drop_toBytes (i j k : Nat) (x : BitVec (8 * (i + (j + k)))) :
    ((toBytes (i + (j + k)) x).drop i).take j = toBytes j (x.extractLsb' (8 * k) (8 * j)) := by
  have hslice : (x.extractLsb' (8 * k) (8 * j)).toNat = x.toNat / 256 ^ k % 256 ^ j := by
    simp [BitVec.extractLsb'_toNat, Nat.shiftRight_eq_div_pow, pow_mul]
  rw [toBytes, toBytes, hslice, natToBytes_mod, natToBytes_add i, natToBytes_add j,
    List.drop_left' (natToBytes_length i _), List.take_left' (natToBytes_length j _)]

/-- A register's bytes and their integer (R6). -/
@[simp] theorem ube_toBytes (n : Nat) (v : BitVec (8 * n)) : ube (toBytes n v) = v.toNat :=
  ube_natToBytes n _ (by simpa [pow_mul] using v.isLt)

theorem toBytes_inj {n : Nat} {v w : BitVec (8 * n)} : toBytes n v = toBytes n w ↔ v = w :=
  ⟨fun h => BitVec.eq_of_toNat_eq (by simpa using congrArg ube h), congrArg _⟩

theorem toBytes_one (b : Byte) : toBytes 1 b = [b] := by
  simp [toBytes, natToBytes]

/-- One byte is a slice of eight bits (R5). -/
theorem getElem?_toBytes (i k : Nat) (x : BitVec (8 * (i + (1 + k)))) :
    (toBytes (i + (1 + k)) x)[i]? = some (x.extractLsb' (8 * k) 8) := by
  have h := congrArg List.head? ((take_drop_toBytes i 1 k x).trans (toBytes_one _))
  simpa [List.head?_take] using h

/-! ### The bytes of a header (R71) -/

theorem toBytes_marker : toBytes 8 marker = List.replicate 8 0xFF := by decide

/-- The first 30 bytes of a header, field by field. -/
theorem toBytes_headerBody (c : CorrId) (t l : Byte) (v : Iv) :
    toBytes 30 (headerBody c t l v) = List.replicate 8 0xFF ++ be32 c ++ [t] ++ [l] ++ toBytes 16 v := by
  calc toBytes 30 (headerBody c t l v)
      = toBytes 14 (marker ++ c ++ t ++ l) ++ toBytes 16 v := toBytes_append (m := 14) (n := 16) rfl
    _ = toBytes 13 (marker ++ c ++ t) ++ toBytes 1 l ++ toBytes 16 v := by
      rw [toBytes_append (m := 13) (n := 1) (x := marker ++ c ++ t ++ l) rfl]
    _ = toBytes 12 (marker ++ c) ++ toBytes 1 t ++ toBytes 1 l ++ toBytes 16 v := by
      rw [toBytes_append (m := 12) (n := 1) (x := marker ++ c ++ t) rfl]
    _ = toBytes 8 marker ++ be32 c ++ toBytes 1 t ++ toBytes 1 l ++ toBytes 16 v := by
      rw [toBytes_append (m := 8) (n := 4) (x := marker ++ c) rfl, be32]
    _ = _ := by rw [toBytes_marker, toBytes_one, toBytes_one]

theorem toBytes_withCksum (b : Payload) (k : Cksum) : toBytes 32 (withCksum b k) = toBytes 30 b ++ be16 k :=
  toBytes_append (m := 30) (n := 2) rfl

/-! ### The slices of a frame's bytes (R74) -/

section
variable (f : Frame)

theorem take_marker_bytes : (toBytes 32 f).take 8 = List.replicate 8 0xFF ↔ frameMarker f = marker := by
  rw [← toBytes_marker, ← toBytes_inj (n := 8)]
  exact Eq.congr_left (take_drop_toBytes 0 8 24 f)

theorem corr_bytes : ((toBytes 32 f).drop 8).take 4 = be32 (frameCorr f) := take_drop_toBytes 8 4 20 f

theorem type_byte : (toBytes 32 f)[12]? = some (frameType f) := getElem?_toBytes 12 19 f

theorem len_byte : (toBytes 32 f)[13]? = some (frameLen f) := getElem?_toBytes 13 18 f

theorem iv_bytes : ((toBytes 32 f).drop 14).take 16 = toBytes 16 (frameIv f) := take_drop_toBytes 14 16 2 f

theorem toBytes_frame : toBytes 32 f = toBytes 30 (frameBody f) ++ be16 (frameCksum f) := by
  rw [← toBytes_withCksum, withCksum_frame]

theorem body_bytes : (toBytes 32 f).take 30 = toBytes 30 (frameBody f) := by
  rw [toBytes_frame, List.take_left' (toBytes_length 30 _)]

theorem cksum_bytes : (toBytes 32 f).drop 30 = be16 (frameCksum f) := by
  rw [toBytes_frame, List.drop_left' (toBytes_length 30 _)]

end

end Sys2Proof

namespace Sys2Proof.Machine

/-! ### The decoders (R54, R92) -/

/-- The checksum verifies when the big-endian checksum of the first 30 bytes is the last two. -/
theorem verifyChecksum_iff_bytes (u : Suite) (f : Frame) :
    verifyChecksum u f = true ↔ be16 (u.ck16 (frameBody f)) = (toBytes 32 f).drop 30 := by
  rw [verifyChecksum, beq_iff_eq, cksum_bytes, be16, be16, toBytes_inj (n := 2)]

theorem decodeHeader_of_marker (u : Suite) {f : Frame} (h : frameMarker f = marker) :
    decodeHeader u f = some (headerFields f, verifyChecksum u f) := by
  simp [decodeHeader, hasMarker, h]

theorem decodeHeader_of_no_marker (u : Suite) {f : Frame} (h : frameMarker f ≠ marker) : decodeHeader u f = none := by
  simp [decodeHeader, hasMarker, h]

/-! ### The codec commands -/

/-- The result of a codec command launched ready while none runs, whose effect writes flags and codec registers alone:
acceptance and completion together leave only OUTCOME OK (R142, R143). -/
theorem codecCommand_result {s : State} {c : Cmd} {effect : State → State} (unready : State → State)
    {fl : CodecFlags} {cr : CodecRegs} {l : List Reg} (h : s.running = none) (hl : s.launchReady c = true)
    (he : effect (s.accept c) = { s.accept c with flags := fl, codec := cr, unwritten := l }) :
    s.codecCommand c effect unready = { s with outcome := .ok, flags := fl, codec := cr, unwritten := l } := by
  rw [codecCommand_ready s c effect unready h hl, he]
  simp only [State.complete, State.accept, unreadyLaunchesAfter_ready s c hl, h]

theorem decHdrEffect_of_marker {s : State} (h : frameMarker s.codec.fb = marker) :
    decHdrEffect s = State.markWritten [.fCorr, .fType, .fLen, .fIv] { s with
      flags := s.flags.setHeader true (verifyChecksum s.env.suite s.codec.fb)
      codec := { s.codec with
        corr := frameCorr s.codec.fb
        type := frameType s.codec.fb
        len := frameLen s.codec.fb
        iv := frameIv s.codec.fb } } := by
  rw [decHdrEffect, decodeHeader_of_marker _ h]
  rfl

theorem decHdrEffect_of_no_marker {s : State} (h : frameMarker s.codec.fb ≠ marker) :
    decHdrEffect s = { s with flags := s.flags.setHeader false false } := by
  rw [decHdrEffect, decodeHeader_of_no_marker _ h]

/-! ### The obligations -/

/-- Settles O5: the body's bytes by `toBytes_headerBody`, the checksum's after them. -/
theorem headerFrameBytes : Obligations.HeaderFrameBytes := by
  intro u c t l v
  have body := toBytes_headerBody c t l v
  exact ⟨by rw [encodeHeader, appendChecksum, toBytes_withCksum, body], body⟩

/-- Settles O7: `DecodeHeader` by the marker, whose slices are the bytes the statement names, and `DecodeMessage` as the
same slices and the same checksum test of the decrypted block. -/
theorem decodersReadTheBytes : Obligations.DecodersReadTheBytes := by
  intro u f k v
  refine ⟨⟨fun h => ?noMarker, fun h => ?marker⟩, ?message⟩
  case noMarker => exact decodeHeader_of_no_marker u (mt (take_marker_bytes f).2 h)
  case marker =>
    refine ⟨_, _, _, _, _, decodeHeader_of_marker u ((take_marker_bytes f).1 h), ?_, type_byte f, len_byte f,
      (iv_bytes f).symm, verifyChecksum_iff_bytes u f, (body_bytes f).symm⟩
    rw [corr_bytes, be32, ube_toBytes]
  case message => exact ⟨(body_bytes _).symm, verifyChecksum_iff_bytes u _⟩

/-- Settles O25: a ready codec command whose effect writes `FB` alone. -/
theorem encHdrResult : Obligations.EncHdrResult := fun _ hr hl =>
  ⟨_, congrArg Host.Outcome.next (codecCommand_result encHdrUnready hr hl rfl)⟩

/-- Settles O26: a ready codec command, its effect told by the marker. -/
theorem decHdrResult : Obligations.DecHdrResult := by
  intro s hr hl
  constructor
  · intro h
    exact ⟨_, congrArg Host.Outcome.next
      (codecCommand_result decHdrUnready hr hl (decHdrEffect_of_marker (s := s.accept .decHdr) h))⟩
  · intro h
    exact congrArg Host.Outcome.next
      (codecCommand_result decHdrUnready hr hl (decHdrEffect_of_no_marker (s := s.accept .decHdr) h))

end Sys2Proof.Machine
end

section
/-! PROOFS. The family of 41_message_pipelines.md: the plaintext block of a message (R72, R100), and the results of
ENC_MSG (R101) and DEC_MSG (R103). -/

namespace Sys2Proof.Machine

/-- The block that is encrypted (R100) is the payload's 30 bytes and their checksum, big-endian (R54). -/
theorem toBytes_appendChecksum (u : Suite) (p : Payload) :
    toBytes 32 (appendChecksum u p) = toBytes 30 p ++ be16 (u.ck16 p) :=
  toBytes_withCksum p (u.ck16 p)

/-- The checksum verifies when all 16 bits of it agree (R54). -/
theorem verifyChecksum_eq_decide (u : Suite) (f : Frame) :
    verifyChecksum u f = decide (u.ck16 (frameBody f) = frameCksum f) := by
  rw [verifyChecksum, beq_eq_decide]

/-- PB is the decrypted body whether or not the check passes, and the check is `MSG_VALID` alone (R103). -/
theorem decMsgEffect_eq (s : State) :
    let b := s.env.suite.cbcDec s.codec.fb s.conf.localKey s.codec.iv
    decMsgEffect s = State.markWritten [.pb] { s with
      codec := { s.codec with pb := frameBody b }
      flags := { s.flags with msgValid := decide (s.env.suite.ck16 (frameBody b) = frameCksum b) } } := by
  intro b
  rw [← verifyChecksum_eq_decide]
  rfl

/-- Settles O6: the block is the payload with its checksum appended. -/
theorem messagePlaintextBytes : Obligations.MessagePlaintextBytes := fun u p _ _ =>
  ⟨appendChecksum u p, rfl, toBytes_appendChecksum u p⟩

/-- Settles O27: a ready codec command whose effect writes `FB` alone. -/
theorem encMsgResult : Obligations.EncMsgResult := fun _ hr hl =>
  ⟨_, congrArg Host.Outcome.next (codecCommand_result encMsgUnready hr hl rfl)⟩

/-- Settles O28: a ready codec command whose effect is `decMsgEffect_eq`, the same on both verdicts. -/
theorem decMsgResult : Obligations.DecMsgResult := fun s hr hl =>
  ⟨_, congrArg Host.Outcome.next (codecCommand_result decMsgUnready hr hl (decMsgEffect_eq (s.accept .decMsg)))⟩

end Sys2Proof.Machine
end

section
/-! PROOFS. The family of 42_send.md: SEND from acceptance to completion, position by position (R111 to R115). -/

namespace Sys2Proof.Machine

/-! ### The sequencer's positions (R110, R116) -/

section
variable {s : State}

/-- SEND with no command running is accepted. -/
theorem exec_send_of_idle (h : s.running = none) : exec .send s = .next (sendT0 s) := by
  simp only [exec, execSend, h]

/-- SEND that runs makes the micro-step of its position. -/
theorem exec_send_of_running (h : s.running = some .send) : exec .send s = sendMicroStep s := by
  simp only [exec, execSend, h, if_true]

theorem exec_send_ready_noSession (h : s.running = some .send) (ht : s.txState = .ready) (hv : s.sess.valid = false) :
    exec .send s = .next (sendT1 s) := by
  simp [exec_send_of_running h, sendMicroStep, ht, hv]

theorem exec_send_ready_session (h : s.running = some .send) (ht : s.txState = .ready) (hv : s.sess.valid = true) :
    exec .send s = .next (sendT2 s) := by
  simp [exec_send_of_running h, sendMicroStep, ht, hv]

theorem exec_send_headerSent (h : s.running = some .send) (ht : s.txState = .headerSent) :
    exec .send s = .next (sendT3 s) := by
  simp [exec_send_of_running h, sendMicroStep, ht]

theorem exec_send_messageSent (h : s.running = some .send) (ht : s.txState = .messageSent) :
    exec .send s = .next (sendT4 s) := by
  simp [exec_send_of_running h, sendMicroStep, ht]

/-! ### What each micro-step leaves -/

/-- A ready acceptance leaves no record of an unready launch (R111, R163). -/
theorem sendT0_ready (hl : s.launchReady .send = true) :
    sendT0 s = { s with running := some .send, outcome := .none, txState := .ready } := by
  simp only [sendT0, State.accept, unreadyLaunchesAfter_ready s .send hl]

/-- The drawn pair is the session's, whatever it is (R112). -/
theorem sendT1_of_cons {c : CorrId} {v : Iv} {rest : List (CorrId × Iv)} (hn : s.env.nonces = (c, v) :: rest) :
    sendT1 s = { s with sess := ⟨true, .initiator, c, v⟩, env := { s.env with nonces := rest } } := by
  rcases drawNonce_cases s with ⟨hnil, -⟩ | ⟨c', v', rest', hcons, hd⟩
  · simp [hn] at hnil
  · obtain ⟨⟨rfl, rfl⟩, rfl⟩ : (c = c' ∧ v = v') ∧ rest = rest' := by simpa [hn] using hcons
    rw [sendT1, hd]
    rfl

/-- A ready transmit that Transport answers: the frame goes to `DEST_ADDR` and the answer decides (R113, R114). -/
theorem sendTransmit_answered {a : SendAnswer} {rest : List SendAnswer} (f : Frame) (sent : TxState)
    (hl : s.launchReady .send = true) (ha : s.env.sendAnswers = a :: rest) :
    let e := { s.env with sendAnswers := rest, sent := s.env.sent ++ [⟨s.conf.destAddr, f, a⟩] }
    (a = .ok → sendTransmit f sent s = { s with txState := sent, stage := { s.stage with txf := f }, env := e }) ∧
    (a = .fail → sendTransmit f sent s = { s with
      running := none
      outcome := .transportFailure
      sess := Session.closed
      stage := { s.stage with txf := f, rxhType := 0, rxhLen := 0 }
      env := e }) := by
  rw [← sendAddress_ready s hl]
  rcases sendTransmit_cases s f sent with ⟨hnil, -⟩ | ⟨a', rest', hcons, answer⟩
  · simp [ha] at hnil
  · obtain ⟨rfl, rfl⟩ : a = a' ∧ rest = rest' := by simpa [ha] using hcons
    rcases answer with ⟨rfl, hok⟩ | ⟨rfl, hfail⟩
    · exact ⟨fun _ => hok, nofun⟩
    · exact ⟨nofun, fun _ => hfail⟩

end

/-! ### The obligations -/

/-- Settles O30: the acceptance of a ready launch. -/
theorem sendAcceptance : Obligations.SendAcceptance := by
  intro s hr hl
  rw [exec_send_of_idle hr, sendT0_ready hl]

/-- Settles O31: the micro-step in `READY` with no session, and its draw. -/
theorem sendDrawsItsSession : Obligations.SendDrawsItsSession := by
  intro s c v rest hr _ ht hv hn
  rw [exec_send_ready_noSession hr ht hv, sendT1_of_cons hn]

/-- Settles O32: a ready transmit of the header, in `READY` with a session. -/
theorem sendHeaderFrame : Obligations.SendHeaderFrame := by
  intro s a rest hr hl ht hv ha
  rw [exec_send_ready_session hr ht hv, sendT2, headerToSend_ready s hl]
  exact (sendTransmit_answered _ .headerSent hl ha).imp (congrArg Host.Outcome.next ∘ ·) (congrArg Host.Outcome.next ∘ ·)

/-- Settles O33: a ready transmit of the message, in `HEADER_SENT`. -/
theorem sendMessageFrame : Obligations.SendMessageFrame := by
  intro s a rest hr hl ht ha
  rw [exec_send_headerSent hr ht, sendT3, messageToSend_ready s hl]
  exact (sendTransmit_answered _ .messageSent hl ha).imp (congrArg Host.Outcome.next ∘ ·) (congrArg Host.Outcome.next ∘ ·)

/-- Settles O34: the micro-step in `MESSAGE_SENT`, which discards the session and completes. -/
theorem sendCompletion : Obligations.SendCompletion := by
  intro s hr _ ht
  rw [exec_send_messageSent hr ht, sendT4]
  rfl

end Sys2Proof.Machine
end

section
/-! PROOFS. The family of 43_receive.md: RECV's acceptance (R121), its idle poll (R122) and its bounded wait (R127). -/

namespace Sys2Proof.Machine

section
variable {s : State}

/-! ### The sequencer's positions (R120, R130) -/

/-- RECV with no command running is accepted. -/
theorem exec_recv_of_idle (h : s.running = none) : exec .recv s = .next (recvV0 s) := by
  simp only [exec, execRecv, h]

/-- RECV that runs makes the micro-step of its position. -/
theorem exec_recv_of_running (h : s.running = some .recv) : exec .recv s = recvMicroStep s := by
  simp only [exec, execRecv, h, if_true]

theorem exec_recv_idle (h : s.running = some .recv) (hx : s.rxState = .idle) : exec .recv s = .next (recvV1 s) := by
  simp only [exec_recv_of_running h, recvMicroStep, hx]

theorem exec_recv_awaitingMessage (h : s.running = some .recv) (hx : s.rxState = .awaitingMessage)
    (hh : s.stage.rxHeld = false) : exec .recv s = .next (recvV4 s) := by
  simp [exec_recv_of_running h, recvMicroStep, hx, hh]

/-! ### What each micro-step leaves -/

/-- A ready acceptance leaves no record of an unready launch (R121, R163). -/
theorem recvV0_ready (hl : s.launchReady .recv = true) :
    recvV0 s = { s with
      running := some .recv, outcome := .none, rxState := .idle, rx := RxRegs.zero, rxTmoCnt := 0 } := by
  simp only [recvV0, State.accept, unreadyLaunchesAfter_ready s .recv hl]

/-- A poll takes the next answer and nothing else (R48). -/
theorem pollFrame_of_cons {a : Option Frame} {rest : List (Option Frame)} (hp : s.env.pollAnswers = a :: rest) :
    s.pollFrame = some (a, { s with env := { s.env with pollAnswers := rest } }) := by
  simpa [hp] using pollFrame_cases s

theorem recvV1_of_none {rest : List (Option Frame)} (hp : s.env.pollAnswers = none :: rest) :
    recvV1 s = { s with running := none, outcome := .noMessage, env := { s.env with pollAnswers := rest } } := by
  rw [recvV1, pollFrame_of_cons hp]
  rfl

theorem recvV1_of_frame {f : Frame} {rest : List (Option Frame)} (hp : s.env.pollAnswers = some f :: rest) :
    recvV1 s = { s with
      rxState := .awaitingHeader, stage := { s.stage with rxf := f }, env := { s.env with pollAnswers := rest } } := by
  rw [recvV1, pollFrame_of_cons hp]
  rfl

/-- The counter is tested before the poll: at zero none is made (R127). -/
theorem recvV4_of_zero (h0 : s.rxTmoCnt = 0) :
    recvV4 s = { s with
      running := none, outcome := .timeout, rxState := .rejected, sess := Session.closed
      stage := { s.stage with rxhType := 0, rxhLen := 0 } } := by
  rw [recvV4, if_pos h0]
  rfl

theorem recvV4_of_none {rest : List (Option Frame)} (h0 : s.rxTmoCnt ≠ 0) (hp : s.env.pollAnswers = none :: rest) :
    recvV4 s = { s with rxTmoCnt := s.rxTmoCnt - 1, env := { s.env with pollAnswers := rest } } := by
  rw [recvV4, if_neg h0, pollFrame_of_cons hp]

theorem recvV4_of_frame {f : Frame} {rest : List (Option Frame)} (h0 : s.rxTmoCnt ≠ 0)
    (hp : s.env.pollAnswers = some f :: rest) :
    recvV4 s = { s with
      stage := { s.stage with rxf := f, rxHeld := true }, env := { s.env with pollAnswers := rest } } := by
  rw [recvV4, if_neg h0, pollFrame_of_cons hp]

end

/-! ### The obligations -/

/-- Settles O37: the acceptance of a ready launch. -/
theorem recvAcceptance : Obligations.RecvAcceptance := by
  intro s hr hl
  rw [exec_recv_of_idle hr, recvV0_ready hl]
  rfl

/-- Settles O38: the micro-step in `IDLE`, by the poll's answer. -/
theorem recvIdlePoll : Obligations.RecvIdlePoll := by
  intro s a rest hr _ hx hp
  rw [exec_recv_idle hr hx]
  constructor
  · rintro rfl
    rw [recvV1_of_none hp]
  · rintro f rfl
    rw [recvV1_of_frame hp]

/-- Settles O42: the micro-step in `AWAITING_MESSAGE` with no frame held, by the counter and then the poll's answer. -/
theorem recvBoundedWait : Obligations.RecvBoundedWait := by
  intro s hr _ hx hh
  rw [exec_recv_awaitingMessage hr hx hh]
  refine ⟨fun h0 => ?timeout, fun rest h0 hp => ?noFrame, fun f rest h0 hp => ?frame⟩
  case timeout =>
    rw [recvV4_of_zero h0]
    rfl
  case noFrame => rw [recvV4_of_none h0 hp]
  case frame => rw [recvV4_of_frame h0 hp]

end Sys2Proof.Machine
end

section
/-! PROOFS. The family of 70_reset_and_hazards.md: the reset input (R160, R161). -/

namespace Sys2Proof.Machine

/-- The reset input leaves the state after a reset, in an environment that lost the input taken and counts one reset
more: nothing else of the state before enters (R160), and what was handed over stays (R161). -/
theorem step_of_reset_eq_afterReset {s : State} {rest : List Input} (h : s.env.inputs = .reset :: rest) :
    step s = .next (State.afterReset { s.env with inputs := rest, resets := s.env.resets + 1 }) := by
  rw [step_of_reset s h, popInput_of_cons s h, State.assertReset]

/-- Settles O14: STATUS by `afterReset_statusWord`, every other field as `State.afterReset` has it, the environment
included. -/
theorem resetInputEndsEverything : Obligations.ResetInputEndsEverything := by
  intro s rest h
  exact ⟨_, step_of_reset_eq_afterReset h, rfl, rfl, rfl, rfl, afterReset_statusWord _, rfl, rfl, rfl, rfl, rfl, rfl, rfl⟩

end Sys2Proof.Machine
end

section
/-! PROOFS. The decoder and the encoder undo each other (30_encoding.md sections 1 to 3), and the laws of the two codecs
(R77, R94, R95, R104). -/

namespace Sys2Proof

/-! ### The decoder on one whole word -/

theorem decode_command_of_some {w : Byte} {i : Instr} (h : decodeCommand w = some i) (rest : List Byte) :
    decode .command (w :: rest) = .ok (i, rest) := by
  have hw : BitVec.ofNat 8 (ube [w]) = w := by simp [ube]
  simp [decode, Space.bytes, hw, h]

theorem decode_command_of_none {w : Byte} (h : decodeCommand w = none) (rest : List Byte) :
    decode .command (w :: rest) = .error (.illegalOpcode w) := by
  have hw : BitVec.ofNat 8 (ube [w]) = w := by simp [ube]
  simp [decode, Space.bytes, hw, h]

theorem decode_command_eq_ok_iff {w : Byte} {i : Instr} {rest : List Byte} :
    decode .command (w :: rest) = .ok (i, rest) ↔ decodeCommand w = some i := by
  cases hd : decodeCommand w with
  | none => simp [decode_command_of_none hd]
  | some j => simp [decode_command_of_some hd]

theorem decode_firstFrame_toBytes (f : Frame) (rest : List Byte) :
    decode .firstFrame (toBytes 32 f ++ rest) = .ok (decodeFirstFrame f, rest) := by
  have hlen := toBytes_length 32 f
  simp [decode, Space.bytes, hlen, List.take_left' hlen, List.drop_left' hlen, frameOfBytes_toBytes]

theorem decode_nextFrame_toBytes (f : Frame) (rest : List Byte) :
    decode .nextFrame (toBytes 32 f ++ rest) = .ok (decodeNextFrame f, rest) := by
  have hlen := toBytes_length 32 f
  simp [decode, Space.bytes, hlen, List.take_left' hlen, List.drop_left' hlen, frameOfBytes_toBytes]

/-- The decoder refuses what is shorter than a word. -/
theorem bytes_le_of_decode_ok {sp : Space} {bs rest : List Byte} {i : Instr} (h : decode sp bs = .ok (i, rest)) :
    sp.bytes ≤ bs.length := by
  by_contra hlen
  simp [decode, Nat.lt_of_not_le hlen] at h

/-- Thirty-two bytes or more begin with the bytes of a frame. -/
theorem exists_frame_of_le {bs : List Byte} (h : 32 ≤ bs.length) : ∃ f rest, bs = toBytes 32 f ++ rest :=
  ⟨frameOfBytes (bs.take 32), bs.drop 32, by
    rw [toBytes_frameOfBytes _ (List.length_take_of_le h), List.take_append_drop]⟩

/-! ### Frames and their instructions (R73) -/

/-- A command word selects the command that its byte encodes (R76). -/
theorem encode_of_decodeCommand {w : Byte} {i : Instr} (h : decodeCommand w = some i) :
    i.wellFormed .command = true ∧ encode i = [w] := by
  have all : ∀ w : Byte, (decodeCommand w).all (fun i => i.wellFormed .command && (encode i == [w])) = true := by decide
  simpa [h] using all w

theorem encode_asHeader {f : Frame} (h : hasMarker f = true) : encode (asHeader f) = toBytes 32 f := by
  rw [asHeader, encode, headerBits_fields f h]

theorem encode_asMessage (f : Frame) : encode (asMessage f) = toBytes 32 f := by
  rw [asMessage, encode, messageBits_blocks]

theorem encode_decodeFirstFrame (f : Frame) : encode (decodeFirstFrame f) = toBytes 32 f := by
  unfold decodeFirstFrame
  split
  case isTrue h => exact encode_asHeader h
  case isFalse => exact encode_asMessage f

/-- A frame without the marker is a message frame where a header is tested for. -/
theorem asMessage_wellFormed_firstFrame (f : Frame) :
    (asMessage f).wellFormed .firstFrame = true ↔ hasMarker f = false := by
  have hm := frameMarker_messageBits (f.extractLsb' 128 128) (f.extractLsb' 0 128)
  rw [messageBits_blocks] at hm
  simp only [asMessage, Instr.wellFormed, ← hm, hasMarker, bne, Bool.not_eq_true']

theorem decodeFirstFrame_wellFormed (f : Frame) : (decodeFirstFrame f).wellFormed .firstFrame = true := by
  unfold decodeFirstFrame
  split
  case isTrue => rfl
  case isFalse h => exact (asMessage_wellFormed_firstFrame f).2 (by simpa using h)

@[simp] theorem asHeader_headerBits (c : CorrId) (t l : Byte) (v : Iv) (k : Cksum) :
    asHeader (headerBits c t l v k) = .headerFrame c t l v k := by
  simp [asHeader]

@[simp] theorem decodeFirstFrame_headerBits (c : CorrId) (t l : Byte) (v : Iv) (k : Cksum) :
    decodeFirstFrame (headerBits c t l v k) = .headerFrame c t l v k := by
  simp [decodeFirstFrame]

theorem decodeFirstFrame_messageBits {x y : BitVec 128} (h : (Instr.messageFrame x y).wellFormed .firstFrame = true) :
    decodeFirstFrame (messageBits x y) = .messageFrame x y := by
  rw [← asMessage_messageBits x y, asMessage_wellFormed_firstFrame] at h
  simp [decodeFirstFrame, h]

/-! ### The obligations on the decoder -/

/-- Settles O1: a command word by the opcode map; a frame's bytes are decoded as the frame (`decode_firstFrame_toBytes`,
`decode_nextFrame_toBytes`), which its position reads as the instruction. -/
theorem decodeOfEncodeIsTheInstruction : Obligations.DecodeOfEncodeIsTheInstruction := by
  intro sp i rest hi
  cases sp with
  | command =>
    cases i with
    | headerFrame | messageFrame => cases hi
    | _ => exact decode_command_of_some rfl rest
  | firstFrame =>
    cases i with
    | headerFrame c t l v k => rw [encode, decode_firstFrame_toBytes, decodeFirstFrame_headerBits]
    | messageFrame x y => rw [encode, decode_firstFrame_toBytes, decodeFirstFrame_messageBits hi]
    | _ => cases hi
  | nextFrame =>
    cases i with
    | messageFrame x y => rw [encode, decode_nextFrame_toBytes, decodeNextFrame, asMessage_messageBits]
    | _ => cases hi

/-- Settles O2: what was decoded is one word (`bytes_le_of_decode_ok`), a byte or a frame's bytes, and the instruction it
was decoded to encodes to that word. -/
theorem everyDecodedWordIsAnEncoding : Obligations.EveryDecodedWordIsAnEncoding := by
  intro sp bs i rest h
  have hlen := bytes_le_of_decode_ok h
  cases sp with
  | command =>
    obtain ⟨w, bs, rfl⟩ := List.exists_cons_of_length_pos hlen
    cases hd : decodeCommand w with
    | none => simp [decode_command_of_none hd] at h
    | some j =>
      obtain ⟨rfl, rfl⟩ : j = i ∧ bs = rest := by simpa [decode_command_of_some hd] using h
      obtain ⟨hwf, henc⟩ := encode_of_decodeCommand hd
      exact ⟨hwf, by simp [henc]⟩
  | firstFrame =>
    obtain ⟨f, tail, hbs⟩ := exists_frame_of_le hlen
    rw [hbs, decode_firstFrame_toBytes] at h
    obtain ⟨hi, rfl⟩ : decodeFirstFrame f = i ∧ tail = rest := by simpa using h
    exact ⟨hi ▸ decodeFirstFrame_wellFormed f, by rw [hbs, ← hi, encode_decodeFirstFrame]⟩
  | nextFrame =>
    obtain ⟨f, tail, hbs⟩ := exists_frame_of_le hlen
    rw [hbs, decode_nextFrame_toBytes] at h
    obtain ⟨hi, rfl⟩ : decodeNextFrame f = i ∧ tail = rest := by simpa using h
    exact ⟨hi ▸ rfl, by rw [hbs, ← hi, decodeNextFrame, encode_asMessage]⟩

/-- Settles O3: the opcode map, byte by byte. -/
theorem commandWordsAreTheOpcodeMap : Obligations.CommandWordsAreTheOpcodeMap := by
  unfold Obligations.CommandWordsAreTheOpcodeMap
  decide

/-- Settles O4: each word evaluated. -/
theorem sampleWordsDecode : Obligations.SampleWordsDecode := by
  unfold Obligations.SampleWordsDecode
  decide +kernel

end Sys2Proof

namespace Sys2Proof.Machine

/-! ### The obligations on the codecs -/

/-- A frame has the marker exactly when its top 64 bits are all set (R77). -/
theorem frameMarker_eq_marker_iff (f : Frame) : frameMarker f = marker ↔ ∀ i < 64, f.getLsbD (192 + i) = true := by
  have hbit : ∀ i < 64, marker.getLsbD i = true := by decide
  constructor
  · intro h i hi
    rw [← hbit i hi, ← h]
    simp [frameMarker, hi]
  · intro h
    exact BitVec.eq_of_getLsbD_eq fun i hi => by simp [frameMarker, hi, h i hi, hbit i hi]

theorem decodeHeader_eq_none_iff (u : Suite) (f : Frame) : decodeHeader u f = none ↔ frameMarker f ≠ marker :=
  ⟨fun h hm => by simp [decodeHeader_of_marker u hm] at h, decodeHeader_of_no_marker u⟩

/-- Settles O8: no header is a marker that differs, so one of 64 set bits that is clear. -/
theorem markerGateIsExact : Obligations.MarkerGateIsExact := by
  intro u f
  rw [decodeHeader_eq_none_iff, Ne, frameMarker_eq_marker_iff]
  simp

section
variable (u : Suite) (c : CorrId) (t l : Byte) (v : Iv)

@[simp] theorem frameMarker_encodeHeader : frameMarker (encodeHeader u c t l v) = marker := frameMarker_headerBits ..

@[simp] theorem frameBody_encodeHeader : frameBody (encodeHeader u c t l v) = headerBody c t l v :=
  frameBody_headerBits ..

@[simp] theorem frameCksum_encodeHeader :
    frameCksum (encodeHeader u c t l v) = u.ck16 (headerBody c t l v) :=
  frameCksum_headerBits ..

@[simp] theorem headerFields_headerBits (k : Cksum) : headerFields (headerBits c t l v k) = ⟨c, t, l, v⟩ := by
  simp [headerFields]

/-- What the decoder reads of any header frame: its fields, and whether the checksum is that of its body (R92). -/
theorem decodeHeader_headerBits (k : Cksum) :
    decodeHeader u (headerBits c t l v k) = some (⟨c, t, l, v⟩, u.ck16 (headerBody c t l v) == k) := by
  rw [decodeHeader_of_marker u (frameMarker_headerBits ..), headerFields_headerBits, verifyChecksum, frameBody_headerBits,
    frameCksum_headerBits]

end

/-- Settles O9: a header frame whose checksum is the one its body has. -/
theorem headerRoundTrip : Obligations.HeaderRoundTrip := by
  intro u c t l v
  rw [encodeHeader_eq, decodeHeader_headerBits, beq_self_eq_true]

/-- Settles O10: without the marker nothing is decoded; with it the checksum test compares the bodies' checksums, and a
frame with the body of the header is a header frame of its fields, with another checksum. -/
theorem headerTamper : Obligations.HeaderTamper := by
  intro u c t l v f h
  refine ⟨fun hm => ?otherMarker, fun hm hk => ?sameChecksum, fun hb hne => ?otherChecksum⟩
  case otherMarker => exact decodeHeader_of_no_marker u (by simpa [h] using hm)
  case sameChecksum =>
    rw [decodeHeader_of_marker u (by simpa [h] using hm), verifyChecksum_eq_decide, hk]
    simp [h]
  case otherChecksum =>
    have hbody : frameBody f = headerBody c t l v := by simpa [h] using hb
    have hf : f = headerBits c t l v (frameCksum f) := by rw [headerBits, ← hbody, withCksum_frame]
    have hcksum : u.ck16 (headerBody c t l v) ≠ frameCksum f := fun e => hne (by rw [hf, ← e]; rfl)
    rw [hf, decodeHeader_headerBits]
    simpa using hcksum

/-- Settles O11: the decrypted block is the plaintext (R52), whose checksum is the one appended. -/
theorem messageRoundTrip : Obligations.MessageRoundTrip := by
  intro u p k v
  simp [decodeMessage, encodeMessage, Suite.cbcDec_cbcEnc]

end Sys2Proof.Machine
end

section
/-! PROOFS. What a step is at each position of the sequencers (R142, R73, R75), what RECV does at the positions the
family of 43_receive.md leaves (R123 to R126, R128, R129, R131), and what waits or stops (R50, R43, R149). -/

namespace Sys2Proof.Machine

/-! ### A step with no host access pending -/

section
variable {s : State}

theorem microStep_of_idle (h : s.running = none) : microStep s = .next s := by
  simp [microStep, fetchMicroStep, h]

theorem microStep_of_firstFrame (h : s.running = some .recv) (hx : s.rxState = .awaitingHeader) :
    microStep s = exec (decodeFirstFrame s.stage.rxf) s := by
  simp [microStep, fetchMicroStep, h, hx]

theorem microStep_of_nextFrame (h : s.running = some .recv) (hx : s.rxState = .awaitingMessage)
    (hh : s.stage.rxHeld = true) : microStep s = exec (decodeNextFrame s.stage.rxf) s := by
  simp [microStep, fetchMicroStep, h, hx, hh]

theorem microStep_of_running {c : Cmd} (h : s.running = some c)
    (hn : c = .recv → s.rxState ≠ .awaitingHeader ∧ (s.rxState = .awaitingMessage → s.stage.rxHeld = false)) :
    microStep s = exec c.instr s := by
  have first : ¬(c = .recv ∧ s.rxState = .awaitingHeader) := fun ⟨hc, hx⟩ => (hn hc).1 hx
  have next : ¬(c = .recv ∧ s.rxState = .awaitingMessage ∧ s.stage.rxHeld = true) := fun ⟨hc, hx, hh⟩ => by
    simp [(hn hc).2 hx] at hh
  simp only [microStep, fetchMicroStep, h, if_neg first, if_neg next]

/-- With no input, or `pass`, the step is the micro-step of the state with that input taken (R159; assumption log 6). -/
theorem step_of_noAccess (h : s.env.inputs.head? = none ∨ s.env.inputs.head? = some .pass) :
    step s = microStep s.popInput := by
  rcases hi : s.env.inputs with _ | ⟨i, rest⟩
  · have hpop : s.popInput = s := by
      rw [State.popInput, hi, List.tail_nil, ← hi]
    rw [step_of_nil s hi, hpop]
  · obtain rfl : i = .pass := by simpa [hi] using h
    exact step_of_pass s hi

end

/-- Settles O20: a CMD write while idle, whose byte the decoder reads as the instruction. -/
theorem stepRunsTheDecodedCommand : Obligations.StepRunsTheDecodedCommand := by
  intro s w i rest h hr hd
  have hidle : s.busy = false := by simp [State.busy, hr]
  have hw : (w.setWidth 256).setWidth 8 = w := by simp
  have hsome : decodeCommand w = some i := decode_command_eq_ok_iff.1 hd
  rcases step_of_command s h with ⟨hb, -⟩ | ⟨-, hnone, -⟩ | ⟨-, j, hj, hs⟩
  · simp [hidle] at hb
  · simp [hw, hsome] at hnone
  · obtain rfl : i = j := by simpa [hw, hsome] using hj
    rw [hs, popInput_of_cons s h]

/-- Settles O21: the frame's bytes are decoded as the frame, and the micro-step runs what it decodes to. -/
theorem stepRunsTheHeldFrame : Obligations.StepRunsTheHeldFrame := by
  intro s i hin hr hi
  rw [step_of_noAccess hin]
  rcases hi with ⟨hx, hd⟩ | ⟨hx, hh, hd⟩
  · obtain rfl : i = decodeFirstFrame s.stage.rxf := by simpa [hd] using decode_firstFrame_toBytes s.stage.rxf []
    exact microStep_of_firstFrame (s := s.popInput) hr hx
  · obtain rfl : i = decodeNextFrame s.stage.rxf := by simpa [hd] using decode_nextFrame_toBytes s.stage.rxf []
    exact microStep_of_nextFrame (s := s.popInput) hr hx hh

/-- Settles O22: the micro-step of a command that holds no frame. -/
theorem stepRunsTheRunningCommand : Obligations.StepRunsTheRunningCommand := by
  intro s c hin hr hn
  rw [step_of_noAccess hin]
  exact microStep_of_running (s := s.popInput) hr hn

/-! ### RECV and the frames it is given -/

section
variable {s : State}

theorem exec_headerFrame (c : CorrId) (t l : Byte) (v : Iv) (k : Cksum) (s : State) :
    exec (.headerFrame c t l v k) s = .next (recvFrame (headerBits c t l v k) s) := rfl

theorem exec_messageFrame (x y : BitVec 128) (s : State) :
    exec (.messageFrame x y) s = .next (recvFrame (messageBits x y) s) := rfl

theorem exec_asHeader {f : Frame} (h : hasMarker f = true) (s : State) : exec (asHeader f) s = .next (recvFrame f s) := by
  rw [asHeader, exec_headerFrame, headerBits_fields f h]

theorem recvFrame_awaitingHeader (h : s.running = some .recv) (hx : s.rxState = .awaitingHeader) (f : Frame) :
    recvFrame f s = recvV2 f s := by
  simp [recvFrame, h, hx]

theorem recvFrame_awaitingMessage (h : s.running = some .recv) (hx : s.rxState = .awaitingMessage)
    (hh : s.stage.rxHeld = true) (f : Frame) : recvFrame f s = recvV5 f s := by
  simp [recvFrame, h, hx, hh]

/-- A frame no RECV holds for judging (R149). -/
theorem recvFrame_unheld (f : Frame) (h : s.running ≠ some .recv ∨
      (s.rxState ≠ .awaitingHeader ∧ (s.rxState = .awaitingMessage → s.stage.rxHeld = false))) :
    recvFrame f s = s := by
  rcases recvFrame_cases s f with ⟨hr, hx, -⟩ | ⟨hr, hx, hh, -⟩ | ⟨-, hs⟩
  · simp [hr, hx] at h
  · simp [hr, hx, hh] at h
  · exact hs

theorem exec_recv_awaitingHeader (h : s.running = some .recv) (hx : s.rxState = .awaitingHeader) :
    exec .recv s = .next (recvV2 s.stage.rxf s) := by
  simp only [exec_recv_of_running h, recvMicroStep, hx]

theorem exec_recv_headerValid (h : s.running = some .recv) (hx : s.rxState = .headerValid) :
    exec .recv s = .next (recvV3 s) := by
  simp only [exec_recv_of_running h, recvMicroStep, hx]

theorem exec_recv_messageHeld (h : s.running = some .recv) (hx : s.rxState = .awaitingMessage)
    (hh : s.stage.rxHeld = true) : exec .recv s = .next (recvV5 s.stage.rxf s) := by
  simp only [exec_recv_of_running h, recvMicroStep, hx, hh, if_true]

/-! ### What V2, V3 and V5 leave -/

/-- The checksum test of a header frame (R54). -/
theorem verifyChecksum_headerBits (u : Suite) (c : CorrId) (t l : Byte) (v : Iv) (k : Cksum) :
    verifyChecksum u (headerBits c t l v k) = true ↔ k = u.ck16 (headerBody c t l v) := by
  rw [verifyChecksum, frameBody_headerBits, frameCksum_headerBits, beq_iff_eq, eq_comm]

theorem recvV2_of_no_marker {f : Frame} (hm : hasMarker f = false) : recvV2 f s = { s with
    running := none, outcome := .noMessage, malformedCnt := s.malformedCnt + 1, rxState := .idle
    stage := { s.stage with rxf := f } } := by
  simpa [hm] using recvV2_cases s f

theorem recvV2_of_badChecksum {f : Frame} (hm : hasMarker f = true) (hk : verifyChecksum s.env.suite f = false) :
    recvV2 f s = { s with
      running := none, outcome := .integrityHeader, rxState := .rejected, sess := Session.closed
      stage := { s.stage with rxf := f, rxhType := 0, rxhLen := 0 } } := by
  simpa [hm, hk] using recvV2_cases s f

theorem recvV2_of_valid {f : Frame} (hm : hasMarker f = true) (hk : verifyChecksum s.env.suite f = true) :
    recvV2 f s = { s with rxState := .headerValid, stage := { s.stage with rxf := f } } := by
  simpa [hm, hk] using recvV2_cases s f

/-- A ready RECV waits for `RX_TIMEOUT` polls (R126). -/
theorem recvV3_ready (hl : s.launchReady .recv = true) :
    recvV3 s = { s with
      sess := ⟨true, .responder, frameCorr s.stage.rxf, frameIv s.stage.rxf⟩
      stage := { s.stage with rxhType := frameType s.stage.rxf, rxhLen := frameLen s.stage.rxf, rxHeld := false }
      rxTmoCnt := s.conf.rxTimeout
      rxState := .awaitingMessage } := by
  rw [recvV3, waitBudget_ready s hl]
  rfl

/-- A ready RECV delivers the decrypted payload, the session's id and the held type and length (R128, R129). -/
theorem recvV5_ready_of_valid {f : Frame} {p : Payload} (hl : s.launchReady .recv = true)
    (hd : decodeMessage s.env.suite f s.conf.localKey s.sess.iv = (p, true)) : recvV5 f s = { s with
      running := none, outcome := .ok, rxState := .delivered, sess := Session.closed
      rx := ⟨p, s.sess.corr, s.stage.rxhType, s.stage.rxhLen⟩
      stage := { s.stage with rxf := f, rxHeld := false, rxhType := 0, rxhLen := 0 } } := by
  simpa [judgeMessage_ready s f hl, hd] using recvV5_cases s f

theorem recvV5_ready_of_invalid {f : Frame} {p : Payload} (hl : s.launchReady .recv = true)
    (hd : decodeMessage s.env.suite f s.conf.localKey s.sess.iv = (p, false)) : recvV5 f s = { s with
      running := none, outcome := .integrityMessage, rxState := .rejected, sess := Session.closed
      stage := { s.stage with rxf := f, rxHeld := false, rxhType := 0, rxhLen := 0 } } := by
  simpa [judgeMessage_ready s f hl, hd] using recvV5_cases s f

/-- The verdict on a message is the checksum test of the decrypted block (R102). -/
theorem decodeMessage_eq (u : Suite) (f : Frame) (k : Key) (v : Iv) :
    let b := u.cbcDec f k v
    decodeMessage u f k v = (frameBody b, decide (u.ck16 (frameBody b) = frameCksum b)) := by
  intro b
  rw [← verifyChecksum_eq_decide]
  rfl

end

/-- Settles O23: at both positions RECV's own micro-step is what the sequencer does with the frame. -/
theorem recvJudgesTheHeldFrame : Obligations.RecvJudgesTheHeldFrame := by
  intro s hr
  constructor
  · intro hx
    rw [exec_recv_awaitingHeader hr hx, exec_decodeFirstFrame, recvFrame_awaitingHeader hr hx]
  · intro hx hh
    rw [exec_recv_messageHeld hr hx hh, exec_decodeNextFrame, recvFrame_awaitingMessage hr hx hh]

/-- Settles O39: a header frame has the marker, so V2 tests its checksum alone. -/
theorem headerFrameIsJudged : Obligations.HeaderFrameIsJudged := by
  intro s c t l v k hr _ hx f
  have hm : hasMarker f = true := hasMarker_headerBits c t l v k
  have hk := verifyChecksum_headerBits s.env.suite c t l v k
  rw [exec_headerFrame, recvFrame_awaitingHeader hr hx]
  constructor
  · intro h
    rw [recvV2_of_valid hm (hk.2 h)]
  · intro h
    rw [recvV2_of_badChecksum hm (by simpa using mt hk.1 h)]
    rfl

/-- Settles O40: V2 on a frame without the marker; with it the frame is the header frame of its fields. -/
theorem malformedFrameIsCounted : Obligations.MalformedFrameIsCounted := by
  intro s x y hr _ hx
  have hm : hasMarker (messageBits x y) = (x.extractLsb' 64 64 == marker) := by
    rw [hasMarker, frameMarker_messageBits]
  constructor
  · intro h
    rw [exec_messageFrame, recvFrame_awaitingHeader hr hx, recvV2_of_no_marker (by simpa [hm, marker] using h)]
  · intro h
    rw [exec_messageFrame, exec_asHeader (by simpa [hm, marker] using h)]

/-- Settles O41: V3, its count of polls that of a ready RECV. -/
theorem recvOpensItsSession : Obligations.RecvOpensItsSession := by
  intro s hr hl hx f
  rw [exec_recv_headerValid hr hx, recvV3_ready hl]

/-- Settles O43: V5 on the frame, by the verdict of its checksum. -/
theorem messageFrameIsJudged : Obligations.MessageFrameIsJudged := by
  intro s x y hr hl hx hh f b g
  have hd := decodeMessage_eq s.env.suite f s.conf.localKey s.sess.iv
  rw [exec_messageFrame, recvFrame_awaitingMessage hr hx hh]
  constructor
  · intro h
    rw [recvV5_ready_of_valid hl (hd.trans (by rw [decide_eq_true h]))]
    rfl
  · intro h
    rw [recvV5_ready_of_invalid hl (hd.trans (by rw [decide_eq_false h]))]
    rfl

/-- Settles O44: both frame rows give the sequencer the same bits, and V5 rejects a block whose checksum fails. -/
theorem secondHeaderIsTakenAsMessage : Obligations.SecondHeaderIsTakenAsMessage := by
  intro s c t l v k hr hx hh f b
  refine ⟨?_, fun hl h => ?_⟩
  · rw [exec_headerFrame, ← exec_decodeNextFrame, decodeNextFrame]
  · have hd := decodeMessage_eq s.env.suite f s.conf.localKey s.sess.iv
    rw [exec_headerFrame, recvFrame_awaitingMessage hr hx hh,
      recvV5_ready_of_invalid hl (hd.trans (by rw [decide_eq_false h]))]
    rfl

/-! ### What changes nothing, and what stops -/

/-- Settles O45: a frame is given to the sequencer, which does not hold it. -/
theorem unheldFrameChangesNothing : Obligations.UnheldFrameChangesNothing := by
  intro s i hi h
  cases i with
  | headerFrame c t l v k => rw [exec_headerFrame, recvFrame_unheld _ h]
  | messageFrame x y => rw [exec_messageFrame, recvFrame_unheld _ h]
  | _ => simp [Instr.wellFormed] at hi

/-- Settles O29: no command can run while another does. -/
theorem commandIgnoredWhileAnotherRuns : Obligations.CommandIgnoredWhileAnotherRuns := by
  intro s c d hr hne
  cases c with
  | send => simp [Cmd.instr, exec, execSend, hr, hne.symm]
  | recv => simp [Cmd.instr, exec, execRecv, hr, hne.symm]
  | _ => exact congrArg Host.Outcome.next (codecCommand_other s _ d _ _ hr hne.symm)

section
variable {s : State}

theorem sendT1_waits (h : s.env.nonces = []) : sendT1 s = s := by
  simp [sendT1, State.drawNonce, h]

theorem sendTransmit_waits (f : Frame) (sent : TxState) (h : s.env.sendAnswers = []) : sendTransmit f sent s = s := by
  simpa [h] using sendTransmit_cases s f sent

theorem recvV1_waits (h : s.env.pollAnswers = []) : recvV1 s = s := by
  simp [recvV1, State.pollFrame, h]

theorem recvV4_waits (h0 : s.rxTmoCnt ≠ 0) (h : s.env.pollAnswers = []) : recvV4 s = s := by
  rw [recvV4, if_neg h0, State.pollFrame, h]

end

/-- Settles O46: each transaction with no answer leaves the state as it is. -/
theorem sequencerWaitsForAnAnswer : Obligations.SequencerWaitsForAnAnswer := by
  intro s
  refine ⟨fun hr ht hv hn => ?draw, fun hr ht ha => ?transmit, fun hr hx hp => ?poll⟩
  case draw => rw [exec_send_ready_noSession hr ht hv, sendT1_waits hn]
  case transmit =>
    rcases ht with ⟨ht, hv⟩ | ht
    · rw [exec_send_ready_session hr ht hv, sendT2, sendTransmit_waits _ _ ha]
    · rw [exec_send_headerSent hr ht, sendT3, sendTransmit_waits _ _ ha]
  case poll =>
    rcases hx with hx | ⟨hx, hh, h0⟩
    · rw [exec_recv_idle hr hx, recvV1_waits hp]
    · rw [exec_recv_awaitingMessage hr hx hh, recvV4_waits h0 hp]

/-- Settles O47: the positions with no transition, in the two tables of micro-steps. -/
theorem noTransitionIsAFault : Obligations.NoTransitionIsAFault := by
  intro s
  constructor
  · intro hr ht
    simp only [exec_send_of_running hr, sendMicroStep, ht]
  · rintro hr (hx | hx) <;> simp only [exec_recv_of_running hr, recvMicroStep, hx]

end Sys2Proof.Machine
end

section
/-! PROOFS. What every instruction, and with it every step, can do: the codec commands (R142, R163) and RECV (R130) with
each resulting state written out, beside SEND's inversion (`SendOrigin`); and what each of the three keeps. -/

namespace Sys2Proof.Machine

/-! ### The codec commands -/

/-- What a codec command leaves in the four codec flags (R30): DEC_HDR writes its three, DEC_MSG its one. -/
inductive FlagsWritten (f : CodecFlags) : Cmd → CodecFlags → Prop where
  | kept (c : Cmd) : FlagsWritten f c f
  | header (m k : Bool) (hk : k = true → m = true) : FlagsWritten f .decHdr (f.setHeader m k)
  | message (ok : Bool) : FlagsWritten f .decMsg (f.setMessage ok)

/-- What a codec command leaves in the record of unwritten registers (assumption log 2). -/
inductive UnwrittenMoved (l : List Reg) : List Reg → Prop where
  | kept : UnwrittenMoved l l
  | written (rs : List Reg) : UnwrittenMoved l (l.filter fun r => !rs.contains r)
  | undefined (rs : List Reg) (h : ∀ r ∈ rs, r.writable = true) :
      UnwrittenMoved l (Reg.all.filter fun r => l.contains r || rs.contains r)

/-- What an effect of a codec command, ready or not, can write. -/
def CodecEffect (c : Cmd) (effect : State → State) : Prop :=
  ∀ s, ∃ fl cr un, effect s = { s with flags := fl, codec := cr, unwritten := un } ∧
    FlagsWritten s.flags c fl ∧ UnwrittenMoved s.unwritten un

theorem encHdrEffect_codecEffect : CodecEffect .encHdr encHdrEffect :=
  fun _ => ⟨_, _, _, rfl, .kept _, .written [.fb]⟩

theorem encHdrUnready_codecEffect : CodecEffect .encHdr encHdrUnready :=
  fun _ => ⟨_, _, _, rfl, .kept _, .undefined [.fb] (by decide)⟩

theorem decHdrEffect_codecEffect : CodecEffect .decHdr decHdrEffect := fun s => by
  rcases decHdrEffect_cases s with e | ⟨k, _, e⟩
  · exact ⟨_, _, _, e, .header false false nofun, .kept⟩
  · exact ⟨_, _, _, e, .header true k fun _ => rfl, .written [.fCorr, .fType, .fLen, .fIv]⟩

theorem decHdrUnready_codecEffect : CodecEffect .decHdr decHdrUnready :=
  fun _ => ⟨_, _, _, rfl, .header _ _ (by simp +contextual), .undefined [.fCorr, .fType, .fLen, .fIv] (by decide)⟩

theorem encMsgEffect_codecEffect : CodecEffect .encMsg encMsgEffect :=
  fun _ => ⟨_, _, _, rfl, .kept _, .written [.fb]⟩

theorem encMsgUnready_codecEffect : CodecEffect .encMsg encMsgUnready :=
  fun _ => ⟨_, _, _, rfl, .kept _, .undefined [.fb] (by decide)⟩

theorem decMsgEffect_codecEffect : CodecEffect .decMsg decMsgEffect :=
  fun _ => ⟨_, _, _, rfl, .message _, .written [.pb]⟩

theorem decMsgUnready_codecEffect : CodecEffect .decMsg decMsgUnready :=
  fun _ => ⟨_, _, _, rfl, .message _, .undefined [.pb] (by decide)⟩

/-- Everything a codec command can do: be ignored, or end at once with `OK`. -/
inductive CodecOrigin (c : Cmd) (s : State) : State → Prop where
  | still : CodecOrigin c s s
  | done (hr : s.canRun c = true) (fl : CodecFlags) (cr : CodecRegs) (un : List Reg)
      (hf : FlagsWritten s.flags c fl) (hu : UnwrittenMoved s.unwritten un) :
      CodecOrigin c s { s with
        running := none
        outcome := .ok
        flags := fl
        codec := cr
        unwritten := un
        unreadyLaunches := s.unreadyLaunchesAfter c }

theorem codecCommand_origin {c : Cmd} {effect unready : State → State} (he : CodecEffect c effect)
    (hu : CodecEffect c unready) (s : State) : CodecOrigin c s (s.codecCommand c effect unready) := by
  have done {e : State → State} (h : CodecEffect c e) (hr : s.canRun c = true) :
      CodecOrigin c s ((e (s.accept c)).complete .ok) := by
    obtain ⟨fl, cr, un, hs, hf, hun⟩ := h (s.accept c)
    rw [hs]
    exact .done hr fl cr un hf hun
  rcases codecCommand_cases c effect unready s with e | ⟨hr, -, e⟩ | ⟨hr, -, e⟩ <;> rw [e]
  · exact .still
  · exact done he hr
  · exact done hu hr

/-! ### RECV -/

/-- Everything RECV, or a frame `f` it is given, can do, transition by transition (R130). -/
inductive RecvMove (f : Frame) (s : State) : State → Prop where
  | still : RecvMove f s s
  | accept (hr : s.running = none) :
      RecvMove f s { s with
        running := some .recv, outcome := .none, rxState := .idle, rx := RxRegs.zero, rxTmoCnt := 0
        unreadyLaunches := s.unreadyLaunchesAfter .recv }
  | noMessage (hr : s.running = some .recv) (hx : s.rxState = .idle) (rest : List (Option Frame))
      (hp : s.env.pollAnswers = none :: rest) :
      RecvMove f s { s with running := none, outcome := .noMessage, env := { s.env with pollAnswers := rest } }
  | polled (hr : s.running = some .recv) (hx : s.rxState = .idle) (g : Frame) (rest : List (Option Frame))
      (hp : s.env.pollAnswers = some g :: rest) :
      RecvMove f s { s with
        rxState := .awaitingHeader, stage := { s.stage with rxf := g }, env := { s.env with pollAnswers := rest } }
  | malformed (hr : s.running = some .recv) (hx : s.rxState = .awaitingHeader) (hm : hasMarker f = false) :
      RecvMove f s { s with
        running := none, outcome := .noMessage, malformedCnt := s.malformedCnt + 1, rxState := .idle
        stage := { s.stage with rxf := f } }
  | badHeader (hr : s.running = some .recv) (hx : s.rxState = .awaitingHeader) :
      RecvMove f s { s with
        running := none, outcome := .integrityHeader, rxState := .rejected, sess := Session.closed
        stage := { s.stage with rxf := f, rxhType := 0, rxhLen := 0 } }
  | goodHeader (hr : s.running = some .recv) (hx : s.rxState = .awaitingHeader) (hm : hasMarker f = true)
      (hk : verifyChecksum s.env.suite f = true) :
      RecvMove f s { s with rxState := .headerValid, stage := { s.stage with rxf := f } }
  | openSession (hr : s.running = some .recv) (hx : s.rxState = .headerValid) :
      RecvMove f s { s with
        sess := ⟨true, .responder, frameCorr s.stage.rxf, frameIv s.stage.rxf⟩
        stage := { s.stage with rxhType := frameType s.stage.rxf, rxhLen := frameLen s.stage.rxf, rxHeld := false }
        rxTmoCnt := s.waitBudget
        rxState := .awaitingMessage }
  | timeout (hr : s.running = some .recv) (hx : s.rxState = .awaitingMessage) (hh : s.stage.rxHeld = false) :
      RecvMove f s { s with
        running := none, outcome := .timeout, rxState := .rejected, sess := Session.closed
        stage := { s.stage with rxhType := 0, rxhLen := 0 } }
  | emptyPoll (hr : s.running = some .recv) (hx : s.rxState = .awaitingMessage) (h0 : s.rxTmoCnt ≠ 0)
      (rest : List (Option Frame)) (hp : s.env.pollAnswers = none :: rest) :
      RecvMove f s { s with rxTmoCnt := s.rxTmoCnt - 1, env := { s.env with pollAnswers := rest } }
  | held (hr : s.running = some .recv) (hx : s.rxState = .awaitingMessage) (g : Frame) (rest : List (Option Frame))
      (hp : s.env.pollAnswers = some g :: rest) :
      RecvMove f s { s with stage := { s.stage with rxf := g, rxHeld := true }, env := { s.env with pollAnswers := rest } }
  | delivered (hr : s.running = some .recv) (hx : s.rxState = .awaitingMessage) (hh : s.stage.rxHeld = true)
      (hd : (s.judgeMessage f).2 = true) :
      RecvMove f s { s with
        running := none, outcome := .ok, rxState := .delivered, sess := Session.closed, rx := (s.judgeMessage f).1
        stage := { s.stage with rxf := f, rxHeld := false, rxhType := 0, rxhLen := 0 } }
  | badMessage (hr : s.running = some .recv) (hx : s.rxState = .awaitingMessage) :
      RecvMove f s { s with
        running := none, outcome := .integrityMessage, rxState := .rejected, sess := Session.closed
        stage := { s.stage with rxf := f, rxHeld := false, rxhType := 0, rxhLen := 0 } }

theorem recvFrame_move (f : Frame) (s : State) : RecvMove f s (recvFrame f s) := by
  rcases recvFrame_cases s f with ⟨hr, hx, e⟩ | ⟨hr, hx, hh, e⟩ | ⟨-, e⟩ <;> rw [e]
  · rcases recvV2_cases s f with ⟨hm, e⟩ | ⟨-, -, e⟩ | ⟨hm, hk, e⟩ <;> rw [e]
    · exact .malformed hr hx hm
    · exact .badHeader hr hx
    · exact .goodHeader hr hx hm hk
  · rcases recvV5_cases s f with ⟨hd, e⟩ | ⟨-, e⟩ <;> rw [e]
    · exact .delivered hr hx hh hd
    · exact .badMessage hr hx
  · exact .still

/-- A frame RECV holds is judged by `recvFrame_move`; the other positions poll, open the session or wait. -/
theorem recv_move {s t : State} (h : exec .recv s = .next t) : RecvMove s.stage.rxf s t := by
  have held (i : Instr) (hi : exec i s = .next (recvFrame s.stage.rxf s)) (he : exec .recv s = exec i s) :
      RecvMove s.stage.rxf s t := by
    obtain rfl : recvFrame s.stage.rxf s = t := Host.Outcome.next.inj (hi.symm.trans (he.symm.trans h))
    exact recvFrame_move _ s
  cases recv_origin s t h with
  | accept hr => exact .accept hr
  | still => exact .still
  | noMessage hr hx rest hp => exact .noMessage hr hx rest hp
  | firstFrame hr hx g rest hp => exact .polled hr hx g rest hp
  | headerTest hr hx => exact held _ (exec_decodeFirstFrame _ s) ((recvJudgesTheHeldFrame s hr).1 hx)
  | openSession hr hx => exact .openSession hr hx
  | waitRound hr hx hh =>
    rcases recvV4_cases s with ⟨-, e⟩ | ⟨-, -, e⟩ | ⟨h0, rest, hp, e⟩ | ⟨-, g, rest, hp, e⟩ <;> rw [e]
    · exact .timeout hr hx hh
    · exact .still
    · exact .emptyPoll hr hx h0 rest hp
    · exact .held hr hx g rest hp
  | judge hr hx hh => exact held _ (exec_decodeNextFrame _ s) ((recvJudgesTheHeldFrame s hr).2 hx hh)

/-! ### Every instruction, and every step -/

@[simp] theorem ofInstr_instr (c : Cmd) : Cmd.ofInstr c.instr = c := by cases c <;> rfl

/-- What an instruction can do, by the command it belongs to. -/
inductive ExecOrigin (i : Instr) (s t : State) : Prop where
  | codec (c : Cmd) (hi : i = c.instr) (hc : c ≠ .send ∧ c ≠ .recv) (h : CodecOrigin c s t)
  | send (hi : i = .send) (h : SendOrigin s t)
  | recv (hi : Cmd.ofInstr i = .recv) (f : Frame) (hf : i = .recv → f = s.stage.rxf) (h : RecvMove f s t)

theorem exec_origin {i : Instr} {s t : State} (h : exec i s = .next t) : ExecOrigin i s t := by
  have codec (c : Cmd) (hc : c ≠ .send ∧ c ≠ .recv) (hi : i = c.instr) (effect unready : State → State)
      (he : exec i s = .next (s.codecCommand c effect unready)) (hready : CodecEffect c effect)
      (hunready : CodecEffect c unready) : ExecOrigin i s t := by
    obtain rfl : s.codecCommand c effect unready = t := by simpa [he] using h
    exact .codec c hi hc (codecCommand_origin hready hunready s)
  have frame (f : Frame) (he : exec i s = .next (recvFrame f s)) (hi : Cmd.ofInstr i = .recv) (hne : i ≠ .recv) :
      ExecOrigin i s t := by
    obtain rfl : recvFrame f s = t := by simpa [he] using h
    exact .recv hi f (absurd · hne) (recvFrame_move f s)
  cases i with
  | encHdr => exact codec .encHdr (by decide) rfl _ _ rfl encHdrEffect_codecEffect encHdrUnready_codecEffect
  | decHdr => exact codec .decHdr (by decide) rfl _ _ rfl decHdrEffect_codecEffect decHdrUnready_codecEffect
  | encMsg => exact codec .encMsg (by decide) rfl _ _ rfl encMsgEffect_codecEffect encMsgUnready_codecEffect
  | decMsg => exact codec .decMsg (by decide) rfl _ _ rfl decMsgEffect_codecEffect decMsgUnready_codecEffect
  | send => exact .send rfl (send_origin s t h)
  | recv => exact .recv rfl _ (fun _ => rfl) (recv_move h)
  | headerFrame c ty l v k => exact frame _ (exec_headerFrame c ty l v k s) rfl nofun
  | messageFrame x y => exact frame _ (exec_messageFrame x y s) rfl nofun

/-- Everything a step can do to the state it works on. -/
inductive StepMove (s s' t : State) : Prop where
  | still (h : t = s')
  | reset (hi : s.env.inputs.head? = some .reset) (h : t = s'.assertReset)
  | read (n : Nat) (h : t = s'.hostRead n)
  | write (n : Nat) (v : BitVec 256) (h : t = s'.hostWrite n v)
  | illegal (hr : s.running = none) (h : t = s'.illegalCommand)
  | codec (c : Cmd) (hc : c ≠ .send ∧ c ≠ .recv) (h : CodecOrigin c s' t)
  | send (h : SendOrigin s' t)
  | recv (h : RecvMove s'.stage.rxf s' t)

/-- The inversion of a step, down to the transition it makes, on the state with the inputs that are left. -/
theorem step_move {s t : State} (h : step s = .next t) :
    ∃ inputs, StepMove s { s with env := { s.env with inputs := inputs } } t := by
  obtain ⟨s', hs', origin⟩ := step_origin s
  have hstage : s'.stage = s.stage := by rcases hs' with rfl | rfl <;> rfl
  have command (c : Cmd) (he : exec c.instr s' = .next t) : StepMove s s' t := by
    cases exec_origin he with
    | codec c _ hc h => exact .codec c hc h
    | send _ h => exact .send h
    | recv hi f hf h =>
      obtain rfl : c = .recv := by simpa using hi
      exact .recv (hf rfl ▸ h)
  have frame (he : .next (recvFrame s.stage.rxf s') = (.next t : Out)) : StepMove s s' t := by
    obtain rfl : recvFrame s.stage.rxf s' = t := by simpa using he
    exact .recv (hstage ▸ recvFrame_move _ s')
  suffices move : StepMove s s' t by
    rcases hs' with rfl | rfl
    · exact ⟨s'.env.inputs, move⟩
    · exact ⟨s.env.inputs.tail, move⟩
  rw [h] at origin
  cases origin with
  | still h => exact .still (by simpa using h)
  | reset hi h => exact .reset hi (by simpa using h)
  | read n h => exact .read n (by simpa using h)
  | write n v h => exact .write n v (by simpa using h)
  | illegal hr h => exact .illegal hr (by simpa using h)
  | command _ w i hd h => exact command (Cmd.ofInstr i) (by rw [instr_ofInstr hd, h])
  | firstFrame _ _ h => exact frame (exec_decodeFirstFrame _ s' ▸ h.symm)
  | nextFrame _ _ _ h => exact frame (exec_decodeNextFrame _ s' ▸ h.symm)
  | running c _ _ h => exact command c h.symm

/-! ### What each keeps -/

section
variable {s t : State}

/-- A host write that is no CMD write reaches the three groups of read-write registers and the record of what is written. -/
theorem hostWrite_frame (s : State) (n : Nat) (v : BitVec 256) :
    ∃ conf codec tx l, s.hostWrite n v = { s with conf := conf, codec := codec, tx := tx, unwritten := l } := by
  rcases hostWrite_cases s n v with e | ⟨r, -, -, -, e⟩ <;> rw [e]
  · exact ⟨_, _, _, _, rfl⟩
  · exact ⟨_, _, _, _, writeReg_frame s r v⟩

theorem CodecOrigin.frame {c : Cmd} (h : CodecOrigin c s t) : t = { s with
    running := t.running, outcome := t.outcome, flags := t.flags, codec := t.codec, unwritten := t.unwritten
    unreadyLaunches := t.unreadyLaunches } := by
  cases h <;> rfl

theorem SendOrigin.frame (h : SendOrigin s t) : t = { s with
    running := t.running, outcome := t.outcome, txState := t.txState, sess := t.sess
    stage := { t.stage with rxf := s.stage.rxf, rxHeld := s.stage.rxHeld }
    unreadyLaunches := t.unreadyLaunches
    env := { s.env with nonces := t.env.nonces, sendAnswers := t.env.sendAnswers, sent := t.env.sent } } := by
  cases h <;> rfl

theorem RecvMove.frame {f : Frame} (h : RecvMove f s t) : t = { s with
    running := t.running, outcome := t.outcome, rxState := t.rxState, sess := t.sess, malformedCnt := t.malformedCnt
    rxTmoCnt := t.rxTmoCnt, rx := t.rx, stage := { t.stage with txf := s.stage.txf }
    unreadyLaunches := t.unreadyLaunches, env := { s.env with pollAnswers := t.env.pollAnswers } } := by
  cases h <;> rfl

end

/-- Settles O55: neither group stands among what a codec command, SEND or RECV can write. -/
theorem noCommandWritesConfiguration : Obligations.NoCommandWritesConfiguration := by
  intro i s t h
  cases exec_origin h with
  | codec _ _ _ h => rw [h.frame]; exact ⟨rfl, rfl⟩
  | send _ h => rw [h.frame]; exact ⟨rfl, rfl⟩
  | recv _ _ _ h => rw [h.frame]; exact ⟨rfl, rfl⟩

/-- ENC_HDR and ENC_MSG write no flag (R30). -/
theorem CodecOrigin.flags_of_enc {c : Cmd} {s t : State} (h : CodecOrigin c s t) (hc : c = .encHdr ∨ c = .encMsg) :
    t.flags = s.flags := by
  cases h with
  | still => rfl
  | done hr fl cr un hf hu =>
    cases hf with
    | kept => rfl
    | header | message => simp at hc

/-- Settles O56: what each clause names is outside what that command can write (`frame`), the flags of ENC_HDR and ENC_MSG
apart (`CodecOrigin.flags_of_enc`). -/
theorem commandsKeepEachOthersState : Obligations.CommandsKeepEachOthersState := by
  intro i s t h
  cases exec_origin h with
  | codec c hi hc h =>
    have hofInstr : Cmd.ofInstr i = c := hi ▸ ofInstr_instr c
    refine ⟨fun _ => ?_, fun _ => ?_, fun hrecv => ?_, fun hsend => ?_, fun henc => h.flags_of_enc ?_⟩
    · rw [h.frame]; exact ⟨rfl, rfl, rfl, rfl, rfl⟩
    · rw [h.frame]; exact ⟨rfl, rfl, rfl, rfl⟩
    · rcases hrecv with ⟨_, _, _, _, _, rfl⟩ | ⟨_, _, rfl⟩ | rfl <;> exact absurd hofInstr.symm hc.2
    · exact absurd (hsend ▸ hofInstr).symm hc.1
    · rw [← hofInstr]
      exact henc.imp (congrArg Cmd.ofInstr) (congrArg Cmd.ofInstr)
  | send hi origin =>
    subst hi
    refine ⟨fun _ => ?_, by simp, by simp, fun _ => ?_, by simp⟩
    · rw [origin.frame]; exact ⟨rfl, rfl, rfl, rfl, rfl⟩
    · rw [origin.frame]; exact ⟨rfl, rfl, rfl, rfl⟩
  | recv hi _ _ h =>
    refine ⟨fun hother => ?_, fun hcodec => ?_, fun _ => ?_, fun hsend => ?_, fun henc => ?_⟩
    · rcases hother with rfl | rfl | rfl | rfl | rfl <;> cases hi
    · rcases hcodec with rfl | rfl | rfl | rfl <;> cases hi
    · rw [h.frame]; exact ⟨rfl, rfl, rfl, rfl, rfl, rfl, rfl⟩
    · subst hsend; cases hi
    · rcases henc with rfl | rfl <;> cases hi

end Sys2Proof.Machine
end

section
/-! PROOFS. The invariant holds after reset and every step keeps it, part by part: each part is kept by each move of
`StepMove` on its own. -/

namespace Sys2Proof.Safety

open Sys2Proof.Machine

/-- Every move of a step keeps the property. -/
structure KeptByMoves (P : State → Prop) : Prop where
  inputs (s : State) (l : List Input) (h : P s) : P { s with env := { s.env with inputs := l } }
  afterReset (e : Env) : P (State.afterReset e)
  hostRead (s : State) (n : Nat) (h : P s) : P (s.hostRead n)
  writeReg (s : State) (r : Reg) (v : BitVec 256) (hr : s.running = none) (h : P s) : P (s.writeReg r v)
  illegal (s : State) (hr : s.running = none) (h : P s) : P s.illegalCommand
  codec (c : Cmd) (hc : c ≠ .send ∧ c ≠ .recv) (s t : State) (h : P s) (m : CodecOrigin c s t) : P t
  send (s t : State) (h : P s) (m : SendOrigin s t) : P t
  recv (s t : State) (h : P s) (m : RecvMove s.stage.rxf s t) : P t

theorem KeptByMoves.step {P : State → Prop} (k : KeptByMoves P) {s t : State} (hs : P s) (h : step s = .next t) : P t := by
  obtain ⟨l, move⟩ := step_move h
  have hp := k.inputs s l hs
  cases move with
  | still h => exact h ▸ hp
  | reset _ h => exact h ▸ k.afterReset _
  | read n h => exact h ▸ k.hostRead _ n hp
  | write n v h =>
    rcases hostWrite_cases _ n v with e | ⟨r, -, hb, -, e⟩
    · rw [h, e]; exact hp
    · rw [h, e]; exact k.writeReg _ r v (by simpa [State.busy] using hb) hp
  | illegal hidle h => exact h ▸ k.illegal _ hidle hp
  | codec c hc m => exact k.codec c hc _ t hp m
  | send m => exact k.send _ t hp m
  | recv m => exact k.recv _ t hp m

/-! ### The codec flags (R30) -/

theorem flagsOk_congr {s t : State} (h : t.flags = s.flags) : flagsOk t = flagsOk s := by
  simp only [flagsOk, h]

theorem flagsOk_kept : KeptByMoves (flagsOk · = true) where
  inputs _ _ h := h
  afterReset _ := rfl
  hostRead _ _ h := h
  writeReg s r v _ h := (flagsOk_congr (by simp [State.writeReg])).trans h
  illegal _ _ h := h
  codec c _ s t h m := by
    cases m with
    | still => exact h
    | done _ fl _ _ hf =>
      cases hf with
      | kept => exact h
      | header m k hk => simpa [flagsOk, CodecFlags.setHeader, imp_iff_not_or] using hk
      | message ok => exact h
  send s t h m := (flagsOk_congr (by rw [m.frame])).trans h
  recv s t h m := (flagsOk_congr (by rw [m.frame])).trans h

/-! ### The result registers (R22) -/

theorem resultsOk_iff (s : State) : resultsOk s = true ↔ s.rxState = .delivered ∨ s.rx = RxRegs.zero := by
  simp [resultsOk]

theorem resultsOk_congr {s t : State} (hx : t.rxState = s.rxState) (h : t.rx = s.rx) : resultsOk t = resultsOk s := by
  simp only [resultsOk, hx, h]

theorem resultsOk_kept : KeptByMoves (resultsOk · = true) where
  inputs _ _ h := h
  afterReset _ := rfl
  hostRead _ _ h := h
  writeReg s r v _ h := (resultsOk_congr (by simp [State.writeReg]) (by simp [State.writeReg])).trans h
  illegal _ _ h := h
  codec c _ s t h m := (resultsOk_congr (by rw [m.frame]) (by rw [m.frame])).trans h
  send s t h m := (resultsOk_congr (by rw [m.frame]) (by rw [m.frame])).trans h
  recv s t h m := by
    rw [resultsOk_iff] at h ⊢
    cases m <;> simp_all

/-! ### The record of unwritten registers -/

/-- Of all registers, in the table's order, those that can be written are those R32 leaves unspecified. -/
theorem filter_all_sublist {p : Reg → Bool} (h : ∀ r, p r = true → r.writable = true) :
    (Reg.all.filter p).Sublist Reg.unspecified := by
  have hp : Reg.all.filter p = (Reg.all.filter Reg.writable).filter p := by
    rw [List.filter_filter]
    exact List.filter_congr fun r _ => by cases hr : p r <;> simp [hr, h r]
  have hw : Reg.all.filter Reg.writable = Reg.unspecified := by decide
  rw [hp, hw]
  exact List.filter_sublist

theorem unwrittenOk_iff (s : State) : unwrittenOk s = true ↔ s.unwritten.Sublist Reg.unspecified :=
  List.isSublist_iff_sublist

theorem sublist_of_unwrittenMoved {l l' : List Reg} (m : UnwrittenMoved l l') (h : l.Sublist Reg.unspecified) :
    l'.Sublist Reg.unspecified := by
  cases m with
  | kept => exact h
  | written rs => exact List.filter_sublist.trans h
  | undefined rs hrs =>
    refine filter_all_sublist fun r hr => ?_
    rcases (by simpa using hr : r ∈ l ∨ r ∈ rs) with hl | hl
    · exact (writable_iff r).2 (h.subset hl)
    · exact hrs r hl

theorem unwrittenOk_congr {s t : State} (h : t.unwritten = s.unwritten) : unwrittenOk t = unwrittenOk s := by
  simp only [unwrittenOk, h]

theorem unwrittenOk_kept : KeptByMoves (unwrittenOk · = true) where
  inputs _ _ h := h
  afterReset _ := rfl
  hostRead _ _ h := h
  writeReg s r v _ h := by
    rw [unwrittenOk_iff] at h ⊢
    have e : (s.writeReg r v).unwritten = s.unwritten.filter fun q => !([r] : List Reg).contains q := by
      simp [State.writeReg]
    exact e ▸ List.filter_sublist.trans h
  illegal _ _ h := h
  codec c _ s t h m := by
    rw [unwrittenOk_iff] at h ⊢
    cases m with
    | still => exact h
    | done _ _ _ un _ hu => exact sublist_of_unwrittenMoved hu h
  send s t h m := (unwrittenOk_congr (by rw [m.frame])).trans h
  recv s t h m := (unwrittenOk_congr (by rw [m.frame])).trans h

/-! ### The record of unready launches (R163; assumption log 2) -/

theorem launchRecorded_of_idle {s : State} (h : s.running = none) : launchRecorded s = true := by
  simp [launchRecorded, h]

theorem launchRecorded_congr {s t : State} (hr : t.running = s.running) (hu : t.unwritten = s.unwritten)
    (hl : t.unreadyLaunches = s.unreadyLaunches) : launchRecorded t = launchRecorded s := by
  simp only [launchRecorded, State.launchReady, hr, hu, hl]

/-- A command just accepted was ready, or is the last recorded. -/
theorem launchRecorded_of_accepted {s t : State} {c : Cmd} (hr : t.running = some c) (hu : t.unwritten = s.unwritten)
    (hl : t.unreadyLaunches = s.unreadyLaunchesAfter c) : launchRecorded t = true := by
  have hready : t.launchReady c = s.launchReady c := by simp only [State.launchReady, hu]
  rcases unreadyLaunchesAfter_cases s c with ⟨h, -⟩ | ⟨h, e⟩
  · simp [launchRecorded, hr, hready, h]
  · simp [launchRecorded, hr, hl, e]

theorem launchRecorded_kept : KeptByMoves (launchRecorded · = true) where
  inputs _ _ h := h
  afterReset _ := rfl
  hostRead _ _ h := h
  writeReg s r v hr _ := launchRecorded_of_idle (by simpa [State.writeReg] using hr)
  illegal _ _ h := h
  codec c _ s t h m := by
    cases m with
    | still => exact h
    | done => exact launchRecorded_of_idle rfl
  send s t h m := by
    cases m with
    | accept => exact launchRecorded_of_accepted (s := s) rfl rfl rfl
    | still | draw | handed => exact h
    | failed | complete => exact launchRecorded_of_idle rfl
  recv s t h m := by
    cases m with
    | accept => exact launchRecorded_of_accepted (s := s) rfl rfl rfl
    | noMessage | malformed | badHeader | timeout | delivered | badMessage => exact launchRecorded_of_idle rfl
    | _ => exact h

/-! ### The sequencer (R24, R116, R130, R140) -/

/-- No held header field, no held message frame (R26, R31). -/
def NothingHeld (s : State) : Prop := s.stage.rxhType = 0 ∧ s.stage.rxhLen = 0 ∧ s.stage.rxHeld = false

/-- The session is SEND's. -/
def InitiatorSession (s : State) : Prop := s.sess.valid = true ∧ s.sess.role = .initiator

/-- RX_STATE where no RECV runs. -/
def RxAtRest (s : State) : Prop := s.rxState = .idle ∨ s.rxState = .delivered ∨ s.rxState = .rejected

section
variable {s : State}

theorem noSession_iff : noSession s = true ↔ s.sess = Session.closed ∧ NothingHeld s := by
  simp [noSession, NothingHeld, and_assoc]

theorem sequencerOk_of_idle (h : s.running = none) :
    sequencerOk s = true ↔ noSession s = true ∧ s.txState ≠ .messageSent ∧ RxAtRest s := by
  simp [sequencerOk, h, RxAtRest, and_assoc, or_assoc]

theorem sequencerOk_of_send (h : s.running = some .send) :
    sequencerOk s = true ↔ s.outcome = .none ∧ sendPosition s = true ∧ RxAtRest s := by
  simp [sequencerOk, h, RxAtRest, and_assoc, or_assoc]

theorem sequencerOk_of_recv (h : s.running = some .recv) :
    sequencerOk s = true ↔ s.outcome = .none ∧ recvPosition s = true ∧ s.txState ≠ .messageSent := by
  simp [sequencerOk, h, and_assoc]

/-- No codec command is ever seen running (D33). -/
theorem running_of_sequencerOk (h : sequencerOk s = true) :
    s.running = none ∨ s.running = some .send ∨ s.running = some .recv := by
  rcases hr : s.running with _ | (_ | _ | _ | _ | _ | _) <;> simp [sequencerOk, hr] at h ⊢

/-- A codec command that can run finds no command running. -/
theorem idle_of_canRun {c : Cmd} (h : sequencerOk s = true) (hc : c ≠ .send ∧ c ≠ .recv) (hr : s.canRun c = true) :
    s.running = none := by
  rcases running_of_sequencerOk h with hn | hn | hn
  · exact hn
  · simp [State.canRun, hn, hc.1.symm] at hr
  · simp [State.canRun, hn, hc.2.symm] at hr

theorem nothingHeld_of_sendPosition (h : sendPosition s = true) : NothingHeld s := by
  simp only [sendPosition, Bool.and_eq_true, beq_iff_eq, Bool.not_eq_true'] at h
  obtain ⟨⟨⟨htype, hlen⟩, hheld⟩, -⟩ := h
  exact ⟨htype, hlen, hheld⟩

theorem sendPosition_of_ready (ht : s.txState = .ready) :
    sendPosition s = true ↔ NothingHeld s ∧ (s.sess = Session.closed ∨ InitiatorSession s) := by
  simp [sendPosition, ht, NothingHeld, InitiatorSession, and_assoc]

theorem sendPosition_of_sent (ht : s.txState = .headerSent ∨ s.txState = .messageSent) :
    sendPosition s = true ↔ NothingHeld s ∧ InitiatorSession s := by
  rcases ht with ht | ht <;> simp [sendPosition, ht, NothingHeld, InitiatorSession, and_assoc]

/-- A session that is open while SEND runs is SEND's. -/
theorem initiatorSession_of_sendPosition (h : sendPosition s = true)
    (ht : (s.txState = .ready ∧ s.sess.valid = true) ∨ s.txState = .headerSent) : InitiatorSession s := by
  rcases ht with ⟨ht, hv⟩ | ht
  · obtain ⟨-, hc | hs⟩ := (sendPosition_of_ready ht).1 h
    · simp [hc, Session.closed] at hv
    · exact hs
  · exact ((sendPosition_of_sent (.inl ht)).1 h).2

theorem recvPosition_of_early (hx : s.rxState = .idle ∨ s.rxState = .awaitingHeader) :
    recvPosition s = true ↔ noSession s = true := by
  rcases hx with hx | hx <;> simp only [recvPosition, hx]

theorem recvPosition_of_headerValid (hx : s.rxState = .headerValid) :
    recvPosition s = true ↔ noSession s = true ∧ validHeader s.env.suite s.stage.rxf = true := by
  simp [recvPosition, hx]

theorem recvPosition_of_awaitingMessage (hx : s.rxState = .awaitingMessage) :
    recvPosition s = true ↔ s.sess.valid = true ∧ s.sess.role = .responder ∧
      (s.launchReady .recv = true → s.rxTmoCnt ≤ s.conf.rxTimeout) := by
  cases hl : s.launchReady .recv <;> simp [recvPosition, hx, hl, and_assoc]

end

theorem sequencerOk_codec (c : Cmd) (hc : c ≠ .send ∧ c ≠ .recv) (s t : State) (h : sequencerOk s = true)
    (m : CodecOrigin c s t) : sequencerOk t = true := by
  cases m with
  | still => exact h
  | done hrun =>
    have hr : s.running = none := idle_of_canRun h hc hrun
    obtain ⟨hn, ht, hx⟩ := (sequencerOk_of_idle hr).1 h
    exact Iff.mpr (sequencerOk_of_idle rfl) ⟨hn, ht, hx⟩

theorem sequencerOk_send (s t : State) (h : sequencerOk s = true) (m : SendOrigin s t) : sequencerOk t = true := by
  cases m with
  | still => exact h
  | accept hr =>
    obtain ⟨hn, -, hx⟩ := (sequencerOk_of_idle hr).1 h
    obtain ⟨hs, hheld⟩ := noSession_iff.1 hn
    exact Iff.mpr (sequencerOk_of_send rfl) ⟨rfl, Iff.mpr (sendPosition_of_ready rfl) ⟨hheld, .inl hs⟩, hx⟩
  | draw hr ht =>
    obtain ⟨ho, hp, hx⟩ := (sequencerOk_of_send hr).1 h
    have hheld := nothingHeld_of_sendPosition hp
    exact Iff.mpr (sequencerOk_of_send hr) ⟨ho, Iff.mpr (sendPosition_of_ready ht) ⟨hheld, .inr ⟨rfl, rfl⟩⟩, hx⟩
  | handed hr f sent ht =>
    obtain ⟨ho, hp, hx⟩ := (sequencerOk_of_send hr).1 h
    have hs : InitiatorSession s :=
      initiatorSession_of_sendPosition hp (ht.imp (fun ⟨hready, hv, _⟩ => ⟨hready, hv⟩) And.left)
    have hsent : sent = .headerSent ∨ sent = .messageSent := ht.imp (fun ⟨_, _, e⟩ => e) And.right
    have hheld := nothingHeld_of_sendPosition hp
    exact Iff.mpr (sequencerOk_of_send hr) ⟨ho, Iff.mpr (sendPosition_of_sent hsent) ⟨hheld, hs⟩, hx⟩
  | failed hr f ht =>
    obtain ⟨-, hp, hx⟩ := (sequencerOk_of_send hr).1 h
    obtain ⟨-, -, hheld⟩ := nothingHeld_of_sendPosition hp
    have htx : s.txState ≠ .messageSent := by rcases ht with ⟨ht, -⟩ | ht <;> simp [ht]
    exact Iff.mpr (sequencerOk_of_idle rfl) ⟨noSession_iff.2 ⟨rfl, rfl, rfl, hheld⟩, htx, hx⟩
  | complete hr =>
    obtain ⟨-, hp, hx⟩ := (sequencerOk_of_send hr).1 h
    obtain ⟨-, -, hheld⟩ := nothingHeld_of_sendPosition hp
    exact Iff.mpr (sequencerOk_of_idle rfl) ⟨noSession_iff.2 ⟨rfl, rfl, rfl, hheld⟩, nofun, hx⟩

theorem sequencerOk_recv (s t : State) (h : sequencerOk s = true) (m : RecvMove s.stage.rxf s t) :
    sequencerOk t = true := by
  cases m with
  | still => exact h
  | accept hr =>
    obtain ⟨hn, ht, -⟩ := (sequencerOk_of_idle hr).1 h
    exact Iff.mpr (sequencerOk_of_recv rfl) ⟨rfl, hn, ht⟩
  | noMessage hr hx =>
    obtain ⟨-, hp, ht⟩ := (sequencerOk_of_recv hr).1 h
    exact Iff.mpr (sequencerOk_of_idle rfl) ⟨(recvPosition_of_early (.inl hx)).1 hp, ht, .inl hx⟩
  | polled hr hx =>
    obtain ⟨ho, hp, ht⟩ := (sequencerOk_of_recv hr).1 h
    have hn := (recvPosition_of_early (.inl hx)).1 hp
    exact Iff.mpr (sequencerOk_of_recv hr) ⟨ho, hn, ht⟩
  | malformed hr hx =>
    obtain ⟨-, hp, ht⟩ := (sequencerOk_of_recv hr).1 h
    exact Iff.mpr (sequencerOk_of_idle rfl) ⟨(recvPosition_of_early (.inr hx)).1 hp, ht, .inl rfl⟩
  | badHeader hr hx =>
    obtain ⟨-, hp, ht⟩ := (sequencerOk_of_recv hr).1 h
    obtain ⟨-, -, -, hheld⟩ := noSession_iff.1 ((recvPosition_of_early (.inr hx)).1 hp)
    exact Iff.mpr (sequencerOk_of_idle rfl) ⟨noSession_iff.2 ⟨rfl, rfl, rfl, hheld⟩, ht, .inr (.inr rfl)⟩
  | goodHeader hr hx hm hk =>
    obtain ⟨ho, hp, ht⟩ := (sequencerOk_of_recv hr).1 h
    have hvalid : validHeader s.env.suite s.stage.rxf = true := by simp [validHeader, hm, hk]
    refine Iff.mpr (sequencerOk_of_recv hr) ⟨ho, ?_, ht⟩
    exact Iff.mpr (recvPosition_of_headerValid rfl) ⟨(recvPosition_of_early (.inr hx)).1 hp, hvalid⟩
  | openSession hr hx =>
    obtain ⟨ho, -, ht⟩ := (sequencerOk_of_recv hr).1 h
    refine Iff.mpr (sequencerOk_of_recv hr) ⟨ho, ?_, ht⟩
    exact Iff.mpr (recvPosition_of_awaitingMessage rfl) ⟨rfl, rfl, fun hl => waitBudget_ready s hl ▸ BitVec.le_refl _⟩
  | timeout hr hx hh =>
    obtain ⟨-, -, ht⟩ := (sequencerOk_of_recv hr).1 h
    exact Iff.mpr (sequencerOk_of_idle rfl) ⟨noSession_iff.2 ⟨rfl, rfl, rfl, hh⟩, ht, .inr (.inr rfl)⟩
  | emptyPoll hr hx h0 =>
    obtain ⟨ho, hp, ht⟩ := (sequencerOk_of_recv hr).1 h
    obtain ⟨hv, hrole, hcnt⟩ := (recvPosition_of_awaitingMessage hx).1 hp
    have hdec : s.rxTmoCnt - 1 ≤ s.rxTmoCnt := by bv_omega
    refine Iff.mpr (sequencerOk_of_recv hr) ⟨ho, ?_, ht⟩
    exact Iff.mpr (recvPosition_of_awaitingMessage hx) ⟨hv, hrole, fun hl => BitVec.le_trans hdec (hcnt hl)⟩
  | held hr hx =>
    obtain ⟨ho, hp, ht⟩ := (sequencerOk_of_recv hr).1 h
    refine Iff.mpr (sequencerOk_of_recv hr) ⟨ho, ?_, ht⟩
    exact Iff.mpr (recvPosition_of_awaitingMessage hx) ((recvPosition_of_awaitingMessage hx).1 hp)
  | delivered hr hx =>
    obtain ⟨-, -, ht⟩ := (sequencerOk_of_recv hr).1 h
    exact Iff.mpr (sequencerOk_of_idle rfl) ⟨noSession_iff.2 ⟨rfl, rfl, rfl, rfl⟩, ht, .inr (.inl rfl)⟩
  | badMessage hr hx =>
    obtain ⟨-, -, ht⟩ := (sequencerOk_of_recv hr).1 h
    exact Iff.mpr (sequencerOk_of_idle rfl) ⟨noSession_iff.2 ⟨rfl, rfl, rfl, rfl⟩, ht, .inr (.inr rfl)⟩

theorem sequencerOk_kept : KeptByMoves (sequencerOk · = true) where
  inputs _ _ h := h
  afterReset _ := rfl
  hostRead _ _ h := h
  writeReg s r v hr h := by
    rw [sequencerOk_of_idle hr] at h
    rw [sequencerOk_of_idle (by simpa [State.writeReg] using hr)]
    simpa [State.writeReg, noSession, RxAtRest] using h
  illegal s hr h := (sequencerOk_of_idle (s := s.illegalCommand) hr).2 ((sequencerOk_of_idle hr).1 h)
  codec := sequencerOk_codec
  send := sequencerOk_send
  recv := sequencerOk_recv

/-! ### The invariant -/

theorem inv_iff (s : State) : inv s = true ↔ sequencerOk s = true ∧ flagsOk s = true ∧ resultsOk s = true ∧
    unwrittenOk s = true ∧ launchRecorded s = true := by
  simp [inv, and_assoc]

/-- Settles O52: the state after reset, evaluated. -/
theorem resetSatisfiesTheInvariant : Obligations.ResetSatisfiesTheInvariant :=
  (inv_iff _).2 ⟨sequencerOk_kept.afterReset _, flagsOk_kept.afterReset _, resultsOk_kept.afterReset _,
    unwrittenOk_kept.afterReset _, launchRecorded_kept.afterReset _⟩

/-- Settles O53: each of the five parts is kept on its own. -/
theorem everyStepKeepsTheInvariant : Obligations.EveryStepKeepsTheInvariant := by
  intro s t h hstep
  rw [inv_iff] at h ⊢
  obtain ⟨hseq, hflags, hresults, hunwritten, hlaunch⟩ := h
  exact ⟨sequencerOk_kept.step hseq hstep, flagsOk_kept.step hflags hstep, resultsOk_kept.step hresults hstep,
    unwrittenOk_kept.step hunwritten hstep, launchRecorded_kept.step hlaunch hstep⟩

end Sys2Proof.Safety
end

section
/-! PROOFS. What no step does: get stuck, end a command without an outcome (R159, R169), adopt an IV from a header that did
not validate, deliver a payload that did not, or move MALFORMED_CNT elsewhere than on a marker mismatch. -/

namespace Sys2Proof.Safety

open Sys2Proof.Machine

/-! ### Every step has a next state -/

/-- SEND's running micro-step has a next state, but in `COMPLETE` (R116). -/
theorem sendMicroStep_next {s : State} (h : s.txState ≠ .complete) : ∃ t, sendMicroStep s = .next t := by
  unfold sendMicroStep
  split
  case h_4 ht => exact absurd ht h
  all_goals exact ⟨_, rfl⟩

/-- RECV's running micro-step has a next state, but in `DELIVERED` and `REJECTED` (R130). -/
theorem recvMicroStep_next {s : State} (h : s.rxState ≠ .delivered ∧ s.rxState ≠ .rejected) :
    ∃ t, recvMicroStep s = .next t := by
  unfold recvMicroStep
  split
  case h_5 hx => exact absurd hx h.1
  case h_6 hx => exact absurd hx h.2
  all_goals exact ⟨_, rfl⟩

/-- A command that runs where the invariant allows has a next micro-step. -/
theorem exec_running_next {s : State} {c : Cmd} (h : sequencerOk s = true) (hr : s.running = some c) :
    ∃ t, exec c.instr s = .next t := by
  rcases running_of_sequencerOk h with hn | hn | hn
  · simp [hr] at hn
  · obtain rfl : c = .send := by simpa [hr] using hn
    obtain ⟨-, hp, -⟩ := (sequencerOk_of_send hr).1 h
    obtain ⟨t, ht⟩ := sendMicroStep_next (s := s) fun hc => by simp [sendPosition, hc] at hp
    exact ⟨t, (exec_send_of_running hr).trans ht⟩
  · obtain rfl : c = .recv := by simpa [hr] using hn
    obtain ⟨-, hp, -⟩ := (sequencerOk_of_recv hr).1 h
    obtain ⟨t, ht⟩ := recvMicroStep_next (s := s)
      ⟨fun hx => by simp [recvPosition, hx] at hp, fun hx => by simp [recvPosition, hx] at hp⟩
    exact ⟨t, (exec_recv_of_running hr).trans ht⟩

/-- Settles O54: a launch has a next state (`exec_launch`), a running command has one where the invariant allows it to stand,
and a frame always has one. -/
theorem nothingIsStuck : Obligations.NothingIsStuck := by
  intro s h
  obtain ⟨hseq, -⟩ := (inv_iff s).1 h
  obtain ⟨s', hs', origin⟩ := step_origin s
  have hr : s'.running = s.running := by rcases hs' with rfl | rfl <;> rfl
  have hseq' : sequencerOk s' = true := by rcases hs' with rfl | rfl <;> exact hseq
  cases origin with
  | still h | reset _ h | read _ h | write _ _ h | illegal _ h => exact ⟨_, h⟩
  | command hidle w i hd h =>
    obtain ⟨t, ht, -⟩ := exec_launch (Cmd.ofInstr i) s' (hr.trans hidle)
    exact ⟨t, by rw [h, ← ht, instr_ofInstr hd]⟩
  | firstFrame _ _ h => exact ⟨_, h.trans (exec_decodeFirstFrame _ s')⟩
  | nextFrame _ _ _ h => exact ⟨_, h.trans (exec_decodeNextFrame _ s')⟩
  | running c hc _ h =>
    obtain ⟨t, ht⟩ := exec_running_next hseq' (hr.trans hc)
    exact ⟨t, h.trans ht⟩

/-! ### The end of a command (R143, R169) -/

section
variable {s t : State}

theorem outcome_of_codec_end {c : Cmd} (m : CodecOrigin c s t) (hs : s.running ≠ none) (ht : t.running = none) :
    t.outcome ≠ .none := by
  cases m with
  | still => exact absurd ht hs
  | done => nofun

theorem outcome_of_send_end (m : SendOrigin s t) (hs : s.running ≠ none) (ht : t.running = none) : t.outcome ≠ .none := by
  cases m with
  | accept hr => exact absurd hr hs
  | still | draw | handed => exact absurd ht hs
  | failed | complete => nofun

theorem outcome_of_recv_end {f : Frame} (m : RecvMove f s t) (hs : s.running ≠ none) (ht : t.running = none) :
    t.outcome ≠ .none := by
  cases m with
  | accept hr => exact absurd hr hs
  | still | polled | goodHeader | openSession | emptyPoll | held => exact absurd ht hs
  | noMessage | malformed | badHeader | timeout | delivered | badMessage => nofun

/-- A step over which the running command ends records its outcome, or is a reset. -/
theorem outcome_of_step_end (h : step s = .next t) (hs : s.running ≠ none) (ht : t.running = none) :
    t.outcome ≠ .none ∨ s.env.inputs.head? = some .reset := by
  obtain ⟨l, move⟩ := step_move h
  cases move with
  | reset hi _ => exact .inr hi
  | still h | read _ h =>
    subst h
    exact absurd ht hs
  | write n v h =>
    obtain ⟨_, _, _, _, e⟩ := hostWrite_frame { s with env := { s.env with inputs := l } } n v
    rw [h, e] at ht
    exact absurd ht hs
  | illegal hidle _ => exact absurd hidle hs
  | codec _ _ m => exact .inl (outcome_of_codec_end m hs ht)
  | send m => exact .inl (outcome_of_send_end m hs ht)
  | recv m => exact .inl (outcome_of_recv_end m hs ht)

end

/-- STATUS bit 0 is `BUSY` (R23). -/
theorem getLsbD_statusWord_zero (s : State) : s.statusWord.getLsbD 0 = s.busy := by
  obtain ⟨-, hbit, -⟩ := statusWordLayout s
  simpa [State.busy] using congrArg (fun b => b.getLsbD 0) hbit

theorem commandEnds_iff (s t : State) : commandEnds s t = true ↔ s.busy = true ∧ t.busy = false := by
  simp [commandEnds]

/-- Settles O24: nothing is fetched while idle, so the step takes the `pass` and no more; a command that ended recorded its
outcome, or reset ended it. -/
theorem idleBlockKeepsItsState : Obligations.IdleBlockKeepsItsState := by
  refine ⟨fun s hr hi => ?silent, ended_iff, fun s h => ?ended, fun s t => ?ends, fun s t h he => ?outcome⟩
  case silent => rw [step_of_nil s hi, microStep_of_idle hr]
  case ended =>
    obtain ⟨hr, hpass⟩ := (ended_iff s).1 h
    have hin : s.env.inputs.head? = none ∨ s.env.inputs.head? = some .pass := by
      cases hi : s.env.inputs with
      | nil => exact .inl rfl
      | cons i rest => exact .inr (by rw [hpass i (by simp [hi]), List.head?_cons])
    refine ⟨s.popInput, by rw [step_of_noAccess hin, microStep_of_idle (s := s.popInput) hr], ?_, rfl⟩
    exact (ended_iff _).2 ⟨hr, fun x hx => hpass x (List.mem_of_mem_tail hx)⟩
  case ends => rw [commandEnds_iff, getLsbD_statusWord_zero, getLsbD_statusWord_zero]
  case outcome =>
    obtain ⟨hs, ht⟩ := (commandEnds_iff s t).1 he
    exact outcome_of_step_end h ((busy_iff s).1 hs) (by simpa [State.busy] using ht)

/-! ### Sessions, results and the count of malformed frames -/

/-- A frame that validates decodes to its fields (R92). -/
theorem decodeHeader_of_validHeader {u : Suite} {f : Frame} (h : validHeader u f = true) :
    decodeHeader u f = some (headerFields f, true) := by
  obtain ⟨hm, hk⟩ : hasMarker f = true ∧ verifyChecksum u f = true := by simpa [validHeader] using h
  simp [decodeHeader, hm, hk]

/-- Settles O58: SEND's draw opens a session as initiator, RECV's V3 one as responder, where the invariant says that the
header held validated and that no session was open; every other move keeps the session or closes it. -/
theorem ivAdoptedOnlyFromAValidHeader : Obligations.IvAdoptedOnlyFromAValidHeader := by
  intro s t h hstep hv
  obtain ⟨hseq, -⟩ := (inv_iff s).1 h
  obtain ⟨l, move⟩ := step_move hstep
  have kept (e : t.sess = s.sess) : (s.sess.valid = true → t.sess = s.sess) ∧
      (s.sess.valid = false → t.sess.role = .responder →
        decodeHeader s.env.suite s.stage.rxf = some (headerFields s.stage.rxf, true) ∧
        t.sess.iv = frameIv s.stage.rxf ∧ t.sess.corr = frameCorr s.stage.rxf) :=
    ⟨fun _ => e, fun hclosed => by simp [← e, hv] at hclosed⟩
  cases move with
  | reset _ h =>
    subst h
    cases hv
  | still h | read _ h | illegal _ h => exact kept (by simp [h])
  | write n v h =>
    obtain ⟨_, _, _, _, e⟩ := hostWrite_frame { s with env := { s.env with inputs := l } } n v
    exact kept (by rw [h, e])
  | codec c _ m => exact kept (by rw [m.frame])
  | send m =>
    cases m with
    | draw _ _ hs => exact ⟨fun hopen => (nomatch hs.symm.trans hopen), nofun⟩
    | failed | complete => cases hv
    | accept | still | handed => exact kept rfl
  | recv m =>
    cases m with
    | openSession hr hx =>
      obtain ⟨-, hp, -⟩ := (sequencerOk_of_recv hr).1 hseq
      obtain ⟨hn, hvalid⟩ := (recvPosition_of_headerValid hx).1 hp
      obtain ⟨hclosed, -⟩ := noSession_iff.1 hn
      exact ⟨fun hopen => (nomatch (congrArg Session.valid hclosed).symm.trans hopen),
        fun _ _ => ⟨decodeHeader_of_validHeader hvalid, rfl, rfl⟩⟩
    | badHeader | timeout | delivered | badMessage => cases hv
    | still | accept | noMessage | polled | malformed | goodHeader | emptyPoll | held => exact kept rfl

/-- Settles O59: of all moves a RECV's acceptance and reset clear the result registers, and delivery alone fills them, with
what `judgeMessage` found valid. -/
theorem payloadDeliveredOnlyWhenValid : Obligations.PayloadDeliveredOnlyWhenValid := by
  intro s t hstep hne
  obtain ⟨l, move⟩ := step_move hstep
  cases move with
  | reset _ h =>
    subst h
    exact .inl rfl
  | still h | read _ h | illegal _ h => exact absurd (by simp [h]) hne
  | write n v h =>
    obtain ⟨_, _, _, _, e⟩ := hostWrite_frame { s with env := { s.env with inputs := l } } n v
    exact absurd (by rw [h, e]) hne
  | codec c _ m => exact absurd (by rw [m.frame]) hne
  | send m => exact absurd (by rw [m.frame]) hne
  | recv m =>
    cases m with
    | accept => exact .inl rfl
    | delivered hr hx hh hd =>
      refine .inr ⟨hr, hx, hh, rfl, rfl, rfl, fun hl => ?_⟩
      have hjudge := judgeMessage_ready s s.stage.rxf hl
      have hvalid : (decodeMessage s.env.suite s.stage.rxf s.conf.localKey s.sess.iv).2 = true := by
        rw [← hd]
        exact (congrArg Prod.snd hjudge).symm
      exact Prod.ext (congrArg (fun d => d.1.payload) hjudge).symm hvalid
    | _ => exact absurd rfl hne

/-- Settles O60: RECV's move on a frame without the marker adds one, reset clears the count, and no other move writes it. -/
theorem malformedCountMovesOnlyOnAMarkerMismatch : Obligations.MalformedCountMovesOnlyOnAMarkerMismatch := by
  intro s t hstep
  obtain ⟨l, move⟩ := step_move hstep
  cases move with
  | reset hi h => exact .inr (.inr ⟨by rw [h]; rfl, hi⟩)
  | still h | read _ h | illegal _ h => exact .inl (by simp [h])
  | write n v h =>
    obtain ⟨_, _, _, _, e⟩ := hostWrite_frame { s with env := { s.env with inputs := l } } n v
    exact .inl (by rw [h, e])
  | codec c _ m => exact .inl (by rw [m.frame])
  | send m => exact .inl (by rw [m.frame])
  | recv m =>
    cases m with
    | malformed hr hx hm =>
      have hmarker : frameMarker s.stage.rxf ≠ marker := by simpa [hasMarker] using hm
      exact .inr (.inl ⟨rfl, hr, hx, hmarker, rfl, rfl⟩)
    | _ => exact .inl rfl

end Sys2Proof.Safety
end

section
/-! PROOFS. Whole runs: SEND from its CMD write (R116, R148), the bounded wait (R127, R147), two devices over a faithful
Transport (vector S7), and the bounds within which SEND and RECV end (R116, R130). -/

namespace Sys2Proof.Machine

open Sys2Proof.Safety

/-! ### A run, step by step -/

section
variable {s t : State}

/-- Every micro-step of a running command is `exec` of that command, a frame that RECV holds included. -/
theorem microStep_eq_exec {c : Cmd} (h : s.running = some c) : microStep s = exec c.instr s := by
  by_cases hfirst : c = .recv ∧ s.rxState = .awaitingHeader
  · obtain ⟨rfl, hx⟩ := hfirst
    exact (microStep_of_firstFrame h hx).trans ((recvJudgesTheHeldFrame s h).1 hx).symm
  by_cases hnext : c = .recv ∧ s.rxState = .awaitingMessage ∧ s.stage.rxHeld = true
  · obtain ⟨rfl, hx, hh⟩ := hnext
    exact (microStep_of_nextFrame h hx hh).trans ((recvJudgesTheHeldFrame s h).2 hx hh).symm
  exact microStep_of_running h fun hc => ⟨fun hx => hfirst ⟨hc, hx⟩, fun hx => by simpa [hc, hx] using hnext⟩

theorem step_eq_exec {c : Cmd} (hi : s.env.inputs = []) (hr : s.running = some c) : step s = exec c.instr s := by
  rw [step_of_nil s hi, microStep_eq_exec hr]

/-- A run whose first step is a micro-step of the running command. -/
theorem run_microStep {k : Nat} {c : Cmd} (hi : s.env.inputs = []) (hr : s.running = some c)
    (h : exec c.instr s = .next t) : core.run (k + 1) s = core.run k t :=
  core_run_succ k s t ((step_eq_exec hi hr).trans h)

/-- A run whose first step is the launch of a command. -/
theorem run_launch {k : Nat} {v : BitVec 256} {c : Cmd} {rest : List Input} (hr : s.running = none)
    (hi : s.env.inputs = .write 0x01 v :: rest) (hd : decodeCommand (v.setWidth 8) = some c.instr)
    (h : exec c.instr { s with env := { s.env with inputs := rest } } = .next t) : core.run (k + 1) s = core.run k t := by
  have hidle : s.busy = false := by simp [State.busy, hr]
  apply core_run_succ
  rw [← h, ← popInput_of_cons s hi]
  rcases step_of_command s hi with ⟨hb, -⟩ | ⟨-, hnone, -⟩ | ⟨-, i, hsome, hs⟩
  · simp [hidle] at hb
  · simp [hd] at hnone
  · obtain rfl : c.instr = i := by simpa [hd] using hsome
    exact hs

end

/-! ### SEND -/

/-- With no command running there is no session. -/
theorem sess_of_idle {s : State} (h : inv s = true) (hr : s.running = none) : s.sess = Session.closed := by
  obtain ⟨hseq, -⟩ := (inv_iff s).1 h
  obtain ⟨hn, -⟩ := (sequencerOk_of_idle hr).1 hseq
  exact (noSession_iff.1 hn).1

/-- SEND launched ready and its pair drawn: two steps. -/
theorem run_send_drawn {s : State} {c : CorrId} {v : Iv} {ns : List (CorrId × Iv)} (k : Nat) (h : inv s = true)
    (hr : s.running = none) (hl : launchReady .send s = true) (hi : s.env.inputs = [.write 0x01 0x05])
    (hn : s.env.nonces = (c, v) :: ns) :
    core.run (k + 2) s = core.run k { s with
      running := some .send, outcome := .none, txState := .ready, sess := ⟨true, .initiator, c, v⟩
      env := { s.env with inputs := [], nonces := ns } } := by
  have hs : s.sess.valid = false := congrArg Session.valid (sess_of_idle h hr)
  refine (run_launch hr hi (c := .send) (by decide) (sendAcceptance _ hr hl)).trans ?_
  exact run_microStep rfl rfl (sendDrawsItsSession _ c v ns rfl hl rfl hs hn)

/-- The frame is handed over, and this answer taken (R47). -/
def State.handedOver (f : Frame) (a : SendAnswer) (rest : List SendAnswer) (s : State) : State :=
  { s with
    stage := { s.stage with txf := f }
    env := { s.env with sendAnswers := rest, sent := s.env.sent ++ [⟨s.conf.destAddr, f, a⟩] } }

section
variable {s : State} {as : List SendAnswer} {k : Nat}

/-- SEND in `READY` with its session: one step hands the header over (R113). -/
theorem run_send_header_ok (hi : s.env.inputs = []) (hr : s.running = some .send) (hl : s.launchReady .send = true)
    (ht : s.txState = .ready) (hv : s.sess.valid = true) (ha : s.env.sendAnswers = .ok :: as) :
    core.run (k + 1) s = core.run k { s.handedOver
      (encodeHeader s.env.suite s.sess.corr s.tx.type s.tx.len s.sess.iv) .ok as with txState := .headerSent } :=
  run_microStep hi hr ((sendHeaderFrame s .ok as hr hl ht hv ha).1 rfl)

theorem run_send_header_fail (hi : s.env.inputs = []) (hr : s.running = some .send) (hl : s.launchReady .send = true)
    (ht : s.txState = .ready) (hv : s.sess.valid = true) (ha : s.env.sendAnswers = .fail :: as) :
    core.run (k + 1) s = core.run k ((s.handedOver
      (encodeHeader s.env.suite s.sess.corr s.tx.type s.tx.len s.sess.iv) .fail as).discardSession.complete
        .transportFailure) :=
  run_microStep hi hr ((sendHeaderFrame s .fail as hr hl ht hv ha).2 rfl)

/-- SEND in `HEADER_SENT`: one step hands the message over (R114). -/
theorem run_send_message_ok (hi : s.env.inputs = []) (hr : s.running = some .send) (hl : s.launchReady .send = true)
    (ht : s.txState = .headerSent) (ha : s.env.sendAnswers = .ok :: as) :
    core.run (k + 1) s = core.run k { s.handedOver
      (encodeMessage s.env.suite s.tx.payload s.conf.destKey s.sess.iv) .ok as with txState := .messageSent } :=
  run_microStep hi hr ((sendMessageFrame s .ok as hr hl ht ha).1 rfl)

theorem run_send_message_fail (hi : s.env.inputs = []) (hr : s.running = some .send) (hl : s.launchReady .send = true)
    (ht : s.txState = .headerSent) (ha : s.env.sendAnswers = .fail :: as) :
    core.run (k + 1) s = core.run k ((s.handedOver
      (encodeMessage s.env.suite s.tx.payload s.conf.destKey s.sess.iv) .fail as).discardSession.complete
        .transportFailure) :=
  run_microStep hi hr ((sendMessageFrame s .fail as hr hl ht ha).2 rfl)

/-- SEND in `MESSAGE_SENT`: one step completes it (R115). -/
theorem run_send_complete (hi : s.env.inputs = []) (hr : s.running = some .send) (hl : s.launchReady .send = true)
    (ht : s.txState = .messageSent) :
    core.run (k + 1) s = core.run k (({ s with txState := .complete } : State).discardSession.complete .ok) :=
  run_microStep hi hr (sendCompletion s hr hl ht)

end

/-- Settles O35: the launch and the draw (`run_send_drawn`), then the header, the message and the completion. -/
theorem sendRunsToComplete : Obligations.SendRunsToComplete := by
  intro s c v ns as h hr hl hi hn ha hdr msg
  rw [run_send_drawn 3 h hr hl hi hn]
  refine Eq.trans (run_send_header_ok rfl rfl hl rfl rfl ha) ?_
  refine Eq.trans (run_send_message_ok rfl rfl hl rfl rfl) ?_
  refine Eq.trans (run_send_complete rfl rfl hl rfl) ?_
  simp [Host.Core.run, State.handedOver, State.discardSession, State.complete, Session.closed, hr, hdr, msg]

/-- Settles O36: the launch and the draw, then the header that fails, or the header and the message that fails. -/
theorem sendFailureTellsWhichFrame : Obligations.SendFailureTellsWhichFrame := by
  intro s c v ns as h hr hl hi hn hdr msg
  constructor
  · intro ha
    rw [run_send_drawn 1 h hr hl hi hn]
    exact ⟨_, run_send_header_fail rfl rfl hl rfl rfl ha, rfl, rfl, rfl, rfl, rfl⟩
  · intro ha
    rw [run_send_drawn 2 h hr hl hi hn]
    refine ⟨_, Eq.trans (run_send_header_ok rfl rfl hl rfl rfl ha) (run_send_message_fail rfl rfl hl rfl rfl),
      rfl, rfl, rfl, rfl, ?_⟩
    simp [State.handedOver, hdr, msg]

/-! ### The bounded wait -/

/-- Settles O48: induction on the counter; a poll that answers `None` leaves one round less. -/
theorem timeoutAfterExactlyTheBudget : Obligations.TimeoutAfterExactlyTheBudget := by
  intro s rest hr hl hx hh hi hp
  generalize hn : s.rxTmoCnt.toNat = n at hp ⊢
  induction n generalizing s with
  | zero =>
    have h0 : s.rxTmoCnt = 0 := BitVec.eq_of_toNat_eq hn
    obtain rfl : s.env.pollAnswers = rest := hp
    refine (run_microStep hi hr ((recvBoundedWait s hr hl hx hh).1 h0)).trans ?_
    simp [Host.Core.run, h0]
  | succ n ih =>
    have h0 : s.rxTmoCnt ≠ 0 := by bv_omega
    have hp' : s.env.pollAnswers = none :: (List.replicate n none ++ rest) := hp
    refine (run_microStep hi hr ((recvBoundedWait s hr hl hx hh).2.1 _ h0 hp')).trans ?_
    exact ih _ hr hl hx hh hi (by bv_omega) rfl

/-! ### Two devices -/

section
variable {s : State} {k : Nat}

/-- RECV launched ready: one step (R121). -/
theorem run_recv_accept {rest : List Input} (hr : s.running = none) (hl : s.launchReady .recv = true)
    (hi : s.env.inputs = .write 0x01 0x06 :: rest) :
    core.run (k + 1) s = core.run k { s with
      running := some .recv, outcome := .none, rxState := .idle, rx := RxRegs.zero, rxTmoCnt := 0
      env := { s.env with inputs := rest } } :=
  run_launch hr hi (c := .recv) (by decide) (recvAcceptance _ hr hl)

/-- RECV in `IDLE`: a polled frame is held (R122). -/
theorem run_recv_polled {f : Frame} {rest : List (Option Frame)} (hi : s.env.inputs = []) (hr : s.running = some .recv)
    (hx : s.rxState = .idle) (hp : s.env.pollAnswers = some f :: rest) :
    core.run (k + 1) s = core.run k { s with
      rxState := .awaitingHeader, stage := { s.stage with rxf := f }, env := { s.env with pollAnswers := rest } } :=
  run_microStep hi hr ((exec_recv_idle hr hx).trans (congrArg Host.Outcome.next (recvV1_of_frame hp)))

/-- RECV in `AWAITING_HEADER`: an encoded header validates (R94, R123). -/
theorem run_recv_header {c : CorrId} {t l : Byte} {v : Iv} (hi : s.env.inputs = []) (hr : s.running = some .recv)
    (hx : s.rxState = .awaitingHeader) (hf : s.stage.rxf = encodeHeader s.env.suite c t l v) :
    core.run (k + 1) s = core.run k { s with rxState := .headerValid } := by
  have hm : hasMarker s.stage.rxf = true := by rw [hf, encodeHeader_eq, hasMarker_headerBits]
  have hk : verifyChecksum s.env.suite s.stage.rxf = true := by rw [hf, encodeHeader, verifyChecksum_appendChecksum]
  exact run_microStep hi hr ((exec_recv_awaitingHeader hr hx).trans (congrArg Host.Outcome.next (recvV2_of_valid hm hk)))

/-- RECV in `HEADER_VALID`: the session of the header's fields (R126). -/
theorem run_recv_session {c : CorrId} {t l : Byte} {v : Iv} {u : Suite} (hi : s.env.inputs = [])
    (hr : s.running = some .recv) (hl : s.launchReady .recv = true) (hx : s.rxState = .headerValid)
    (hf : s.stage.rxf = encodeHeader u c t l v) :
    core.run (k + 1) s = core.run k { s with
      sess := ⟨true, .responder, c, v⟩
      stage := { s.stage with rxhType := t, rxhLen := l, rxHeld := false }
      rxTmoCnt := s.conf.rxTimeout
      rxState := .awaitingMessage } := by
  rw [run_microStep hi hr (recvOpensItsSession s hr hl hx), hf, encodeHeader_eq, frameCorr_headerBits, frameIv_headerBits,
    frameType_headerBits, frameLen_headerBits]

/-- RECV in `AWAITING_MESSAGE`: a polled frame is held (R127). -/
theorem run_recv_held {f : Frame} {rest : List (Option Frame)} (hi : s.env.inputs = []) (hr : s.running = some .recv)
    (hx : s.rxState = .awaitingMessage) (hh : s.stage.rxHeld = false) (h0 : s.rxTmoCnt ≠ 0)
    (hp : s.env.pollAnswers = some f :: rest) :
    core.run (k + 1) s = core.run k { s with
      stage := { s.stage with rxf := f, rxHeld := true }, env := { s.env with pollAnswers := rest } } :=
  run_microStep hi hr ((exec_recv_awaitingMessage hr hx hh).trans (congrArg Host.Outcome.next (recvV4_of_frame h0 hp)))

/-- RECV with a message held: an encoded message is delivered (R104, R128, R129). -/
theorem run_recv_delivered {p : Payload} (hi : s.env.inputs = []) (hr : s.running = some .recv)
    (hl : s.launchReady .recv = true) (hx : s.rxState = .awaitingMessage) (hh : s.stage.rxHeld = true)
    (hf : s.stage.rxf = encodeMessage s.env.suite p s.conf.localKey s.sess.iv) :
    core.run (k + 1) s = core.run k { s with
      running := none, outcome := .ok, rxState := .delivered, sess := Session.closed
      rx := ⟨p, s.sess.corr, s.stage.rxhType, s.stage.rxhLen⟩
      stage := { s.stage with rxHeld := false, rxhType := 0, rxhLen := 0 } } := by
  have hd : decodeMessage s.env.suite s.stage.rxf s.conf.localKey s.sess.iv = (p, true) := by rw [hf, messageRoundTrip]
  exact run_microStep hi hr
    ((exec_recv_messageHeld hr hx hh).trans (congrArg Host.Outcome.next (recvV5_ready_of_valid hl hd)))

end

/-- Settles O49: A's two frames are those of its completed run (`sendRunsToComplete`); B holds the first, validates it and
takes its fields, holds the second and decrypts it under the key A encrypted it with. -/
theorem endToEndDelivery : Obligations.EndToEndDelivery := by
  intro a b a' c v f g ha har hal hai han haa harun hsent hbr hbl hbi hbp hsuite hkey htimeout
  have hcomplete := sendRunsToComplete a c v [] [] ha har hal hai han haa
  obtain ⟨hf, hg⟩ : f = encodeHeader b.env.suite c a.tx.type a.tx.len v ∧
      g = encodeMessage b.env.suite a.tx.payload b.conf.localKey v := by
    rw [hsuite, hkey]
    cases harun.symm.trans hcomplete
    simpa [eq_comm] using hsent
  exact ⟨_,
    Eq.trans (run_recv_accept hbr hbl hbi) <|
    Eq.trans (run_recv_polled rfl rfl rfl hbp) <|
    Eq.trans (run_recv_header rfl rfl rfl hf) <|
    Eq.trans (run_recv_session rfl rfl hbl rfl hf) <|
    Eq.trans (run_recv_held rfl rfl rfl rfl htimeout rfl) <|
    run_recv_delivered rfl rfl hbl rfl rfl hg,
    rfl, rfl, rfl, rfl, rfl, rfl, rfl⟩

end Sys2Proof.Machine
end

section
/-! PROOFS. The bounds within which SEND (R116) and RECV (R130) end, position by position from the last to the first. -/

namespace Sys2Proof.Machine

open Sys2Proof.Safety

/-- Within `k` steps no command is running, and the state that is reached meets `P`. -/
def EndsWithin (P : State → Prop) (k : Nat) (s : State) : Prop :=
  ∃ j ≤ k, ∃ t, core.run j s = .next t ∧ t.running = none ∧ P t

namespace EndsWithin

variable {P : State → Prop} {j k : Nat} {s t : State}

theorem done (hr : s.running = none) (hp : P s) : EndsWithin P k s := ⟨0, k.zero_le, s, rfl, hr, hp⟩

theorem mono (h : EndsWithin P j s) (hle : j ≤ k) : EndsWithin P k s := by
  obtain ⟨i, hi, hrun⟩ := h
  exact ⟨i, hi.trans hle, hrun⟩

/-- One micro-step of the running command, and the rest. -/
theorem microStep {c : Cmd} (hi : s.env.inputs = []) (hr : s.running = some c) (h : exec c.instr s = .next t)
    (ht : EndsWithin P k t) : EndsWithin P (k + 1) s := by
  obtain ⟨j, hj, u, hrun, hu⟩ := ht
  exact ⟨j + 1, Nat.succ_le_succ hj, u, (run_microStep hi hr h).trans hrun, hu⟩

end EndsWithin

/-! ### SEND -/

/-- How SEND ends (R148). -/
def SendEnded (t : State) : Prop := t.outcome = .ok ∨ t.outcome = .transportFailure

section
variable {s : State} (hi : s.env.inputs = []) (hr : s.running = some .send) (hl : s.launchReady .send = true)
include hi hr hl

theorem messageSent_endsWithin (ht : s.txState = .messageSent) : EndsWithin SendEnded 1 s :=
  .microStep hi hr (sendCompletion s hr hl ht) (.done rfl (.inl rfl))

theorem headerSent_endsWithin (ht : s.txState = .headerSent) (ha : 1 ≤ s.env.sendAnswers.length) :
    EndsWithin SendEnded 2 s := by
  obtain ⟨a, rest, has⟩ := List.exists_cons_of_length_pos ha
  have hstep := sendMessageFrame s a rest hr hl ht has
  cases a with
  | ok => exact .microStep hi hr (hstep.1 rfl) (messageSent_endsWithin hi hr hl rfl)
  | fail => exact .microStep hi hr (hstep.2 rfl) (.done rfl (.inr rfl))

theorem session_endsWithin (ht : s.txState = .ready) (hv : s.sess.valid = true) (ha : 2 ≤ s.env.sendAnswers.length) :
    EndsWithin SendEnded 3 s := by
  obtain ⟨a, rest, has⟩ := List.exists_cons_of_length_pos (Nat.zero_lt_two.trans_le ha)
  have hrest : 1 ≤ rest.length := by simpa [has] using ha
  have hstep := sendHeaderFrame s a rest hr hl ht hv has
  cases a with
  | ok => exact .microStep hi hr (hstep.1 rfl) (headerSent_endsWithin hi hr hl rfl hrest)
  | fail => exact .microStep hi hr (hstep.2 rfl) (.done rfl (.inr rfl))

theorem ready_endsWithin (ht : s.txState = .ready) (hn : s.env.nonces ≠ []) (ha : 2 ≤ s.env.sendAnswers.length) :
    EndsWithin SendEnded 4 s := by
  cases hv : s.sess.valid with
  | true => exact (session_endsWithin hi hr hl ht hv ha).mono (by decide)
  | false =>
    obtain ⟨⟨c, v⟩, rest, hns⟩ := List.exists_cons_of_ne_nil hn
    exact .microStep hi hr (sendDrawsItsSession s c v rest hr hl ht hv hns) (session_endsWithin hi hr hl ht rfl ha)

end

/-- Settles O50: from each position the invariant allows. -/
theorem sendTerminates : Obligations.SendTerminates := by
  intro s h hr hl hi hn ha
  obtain ⟨hseq, -⟩ := (inv_iff s).1 h
  obtain ⟨-, hp, -⟩ := (sequencerOk_of_send hr).1 hseq
  show EndsWithin SendEnded 4 s
  cases ht : s.txState with
  | ready => exact ready_endsWithin hi hr hl ht hn ha
  | headerSent => exact (headerSent_endsWithin hi hr hl ht (Nat.le_of_succ_le ha)).mono (by decide)
  | messageSent => exact (messageSent_endsWithin hi hr hl ht).mono (by decide)
  | complete => simp [sendPosition, ht] at hp

/-! ### RECV -/

/-- RECV ends with an outcome (R143). -/
def RecvEnded (t : State) : Prop := t.outcome ≠ .none

theorem messageHeld_endsWithin {s : State} (hi : s.env.inputs = []) (hr : s.running = some .recv)
    (hx : s.rxState = .awaitingMessage) (hh : s.stage.rxHeld = true) : EndsWithin RecvEnded 1 s := by
  have hstep := exec_recv_messageHeld hr hx hh
  rcases recvV5_cases s s.stage.rxf with ⟨-, e⟩ | ⟨-, e⟩ <;> rw [e] at hstep
  · exact .microStep hi hr hstep (.done rfl nofun)
  · exact .microStep hi hr hstep (.done rfl nofun)

/-- The bounded wait ends within one step more than the counter, by induction on the counter. -/
theorem awaitingMessage_endsWithin {s : State} {n : Nat} (hi : s.env.inputs = []) (hr : s.running = some .recv)
    (hl : s.launchReady .recv = true) (hx : s.rxState = .awaitingMessage) (hh : s.stage.rxHeld = false)
    (hn : s.rxTmoCnt.toNat = n) (hp : n ≤ s.env.pollAnswers.length) : EndsWithin RecvEnded (n + 1) s := by
  induction n generalizing s with
  | zero =>
    obtain ⟨timeout, -, -⟩ := recvBoundedWait s hr hl hx hh
    exact .microStep hi hr (timeout (BitVec.eq_of_toNat_eq hn)) (.done rfl nofun)
  | succ n ih =>
    obtain ⟨-, noFrame, frame⟩ := recvBoundedWait s hr hl hx hh
    have h0 : s.rxTmoCnt ≠ 0 := by bv_omega
    have hdec : (s.rxTmoCnt - 1).toNat = n := by bv_omega
    obtain ⟨a, rest, has⟩ := List.exists_cons_of_length_pos (Nat.zero_lt_of_lt hp)
    have hrest : n ≤ rest.length := by simpa [has] using hp
    cases a with
    | none => exact .microStep hi hr (noFrame rest h0 has) (ih hi hr hl hx hh hdec hrest)
    | some f =>
      exact .microStep hi hr (frame f rest h0 has)
        (EndsWithin.mono (messageHeld_endsWithin hi hr hx rfl) (Nat.succ_le_succ n.zero_le))

section
variable {s : State} {n : Nat} (hi : s.env.inputs = []) (hr : s.running = some .recv) (hl : s.launchReady .recv = true)
  (hn : s.conf.rxTimeout.toNat = n)
include hi hr hl hn

theorem headerValid_endsWithin (hx : s.rxState = .headerValid) (hp : n ≤ s.env.pollAnswers.length) :
    EndsWithin RecvEnded (n + 2) s :=
  .microStep hi hr (recvOpensItsSession s hr hl hx) (awaitingMessage_endsWithin hi hr hl rfl rfl hn hp)

theorem awaitingHeader_endsWithin (hx : s.rxState = .awaitingHeader) (hp : n ≤ s.env.pollAnswers.length) :
    EndsWithin RecvEnded (n + 3) s := by
  have hstep := exec_recv_awaitingHeader hr hx
  rcases recvV2_cases s s.stage.rxf with ⟨-, e⟩ | ⟨-, -, e⟩ | ⟨-, -, e⟩ <;> rw [e] at hstep
  · exact .microStep hi hr hstep (.done rfl nofun)
  · exact .microStep hi hr hstep (.done rfl nofun)
  · exact .microStep hi hr hstep (headerValid_endsWithin hi hr hl hn rfl hp)

theorem idle_endsWithin (hx : s.rxState = .idle) (hp : n + 1 ≤ s.env.pollAnswers.length) :
    EndsWithin RecvEnded (n + 4) s := by
  obtain ⟨a, rest, has⟩ := List.exists_cons_of_length_pos (Nat.zero_lt_of_lt hp)
  have hrest : n ≤ rest.length := by simpa [has] using hp
  obtain ⟨noFrame, frame⟩ := recvIdlePoll s a rest hr hl hx has
  cases a with
  | none => exact .microStep hi hr (noFrame rfl) (.done rfl nofun)
  | some f => exact .microStep hi hr (frame f rfl) (awaitingHeader_endsWithin hi hr hl hn rfl hrest)

end

/-- Settles O51: from each position the invariant allows, the counter of the bounded wait being within `RX_TIMEOUT`. -/
theorem recvTerminates : Obligations.RecvTerminates := by
  intro s h hr hl hi hp
  obtain ⟨hseq, -⟩ := (inv_iff s).1 h
  obtain ⟨-, hpos, -⟩ := (sequencerOk_of_recv hr).1 hseq
  have hp' : s.conf.rxTimeout.toNat ≤ s.env.pollAnswers.length := Nat.le_of_succ_le hp
  rw [Nat.add_comm]
  show EndsWithin RecvEnded (s.conf.rxTimeout.toNat + 4) s
  cases hx : s.rxState with
  | idle => exact idle_endsWithin hi hr hl rfl hx hp
  | awaitingHeader => exact (awaitingHeader_endsWithin hi hr hl rfl hx hp').mono (by omega)
  | headerValid => exact (headerValid_endsWithin hi hr hl rfl hx hp').mono (by omega)
  | awaitingMessage =>
    obtain ⟨-, -, hcnt⟩ := (recvPosition_of_awaitingMessage hx).1 hpos
    have hcnt' : s.rxTmoCnt.toNat ≤ s.conf.rxTimeout.toNat := BitVec.le_def.1 (hcnt hl)
    cases hh : s.stage.rxHeld with
    | true => exact (messageHeld_endsWithin hi hr hx hh).mono (by omega)
    | false => exact (awaitingMessage_endsWithin hi hr hl hx hh rfl (hcnt'.trans hp')).mono (by omega)
  | delivered | rejected => simp [recvPosition, hx] at hpos

end Sys2Proof.Machine
end

section
/-! PROOFS. What no command reads: LOCAL_ADDR and LOCAL_IV, DEST_IV but for ENC_MSG (R12, R15), and, of a ready launch, any
register that nothing has written (R163). -/

namespace Sys2Proof.Machine

/-- The next state, changed; a stop as it is. -/
def mapNext (f : State → State) : Out → Out
  | .next t => .next (f t)
  | .fault e => .fault e
  | .refused e => .refused e

theorem mapNext_congr {f g : State → State} {o : Out} (h : ∀ t, o = .next t → f t = g t) : mapNext f o = mapNext g o := by
  cases o with
  | next t => exact congrArg Host.Outcome.next (h t rfl)
  | fault | refused => rfl

/-! ### The sequencers, with other values in the host's registers -/

/-- Other values in the registers the host writes, and another record of what is unwritten. -/
def State.setRegs (conf : ConfRegs) (codec : CodecRegs) (tx : TxRegs) (l : List Reg) (s : State) : State :=
  { s with conf := conf, codec := codec, tx := tx, unwritten := l }

section
variable {s : State} {conf : ConfRegs} {codec : CodecRegs} {tx : TxRegs} {l : List Reg}

theorem sendT1_setRegs : sendT1 (s.setRegs conf codec tx l) = (sendT1 s).setRegs conf codec tx l := by
  rcases drawNonce_cases s with ⟨hn, -⟩ | ⟨c, v, rest, hn, -⟩
  · rw [sendT1_waits hn, sendT1_waits (s := s.setRegs conf codec tx l) hn]
  · rw [sendT1_of_cons hn, sendT1_of_cons (s := s.setRegs conf codec tx l) hn]
    rfl

theorem sendTransmit_setRegs (f : Frame) (sent : TxState) (h : (s.setRegs conf codec tx l).sendAddress = s.sendAddress) :
    sendTransmit f sent (s.setRegs conf codec tx l) = (sendTransmit f sent s).setRegs conf codec tx l := by
  have henv : (s.setRegs conf codec tx l).env = s.env := rfl
  simp only [sendTransmit, State.sendFrame, h, henv]
  rcases s.env.sendAnswers with _ | ⟨_ | _, rest⟩ <;> rfl

/-- The registers SEND reads at a position are equal. -/
structure SendReadsSame (s s' : State) : Prop where
  launch : s.running = none → s'.launchReady .send = s.launchReady .send
  handOver : s.running = some .send → (s.txState = .ready ∧ s.sess.valid = true) ∨ s.txState = .headerSent →
    s'.sendAddress = s.sendAddress ∧ s'.headerToSend = s.headerToSend ∧ s'.messageToSend = s.messageToSend

theorem exec_send_setRegs (h : SendReadsSame s (s.setRegs conf codec tx l)) :
    exec .send (s.setRegs conf codec tx l) = mapNext (State.setRegs conf codec tx l) (exec .send s) := by
  have hrun : (s.setRegs conf codec tx l).running = s.running := rfl
  rcases hr : s.running with _ | c
  · rw [exec_send_of_idle hr, exec_send_of_idle (hrun.trans hr)]
    simp only [sendT0, State.accept, State.unreadyLaunchesAfter, h.launch hr]
    rfl
  by_cases hc : c = .send
  · subst hc
    rw [exec_send_of_running hr, exec_send_of_running (hrun.trans hr)]
    have htx : (s.setRegs conf codec tx l).txState = s.txState := rfl
    have hsess : (s.setRegs conf codec tx l).sess = s.sess := rfl
    cases ht : s.txState with
    | ready =>
      cases hv : s.sess.valid with
      | false => simp [sendMicroStep, htx, hsess, ht, hv, mapNext, sendT1_setRegs]
      | true =>
        obtain ⟨ha, hh, -⟩ := h.handOver hr (.inl ⟨ht, hv⟩)
        simp [sendMicroStep, htx, hsess, ht, hv, mapNext, sendT2, hh, sendTransmit_setRegs _ _ ha]
    | headerSent =>
      obtain ⟨ha, -, hm⟩ := h.handOver hr (.inr ht)
      simp [sendMicroStep, htx, ht, mapNext, sendT3, hm, sendTransmit_setRegs _ _ ha]
    | messageSent =>
      simp only [sendMicroStep, htx, ht, mapNext]
      rfl
    | complete => simp only [sendMicroStep, htx, ht, mapNext]
  · have still := fun s' hr' => commandIgnoredWhileAnotherRuns s' .send c hr' (Ne.symm hc)
    exact (still _ (hrun.trans hr)).trans (congrArg (mapNext _) (still s hr)).symm

theorem recvV1_setRegs : recvV1 (s.setRegs conf codec tx l) = (recvV1 s).setRegs conf codec tx l := by
  have henv : (s.setRegs conf codec tx l).env = s.env := rfl
  simp only [recvV1, State.pollFrame, henv]
  rcases s.env.pollAnswers with _ | ⟨_ | _, rest⟩ <;> rfl

theorem recvV2_setRegs (f : Frame) : recvV2 f (s.setRegs conf codec tx l) = (recvV2 f s).setRegs conf codec tx l := by
  have henv : (s.setRegs conf codec tx l).env = s.env := rfl
  simp only [recvV2, henv]
  rcases decodeHeader s.env.suite f with _ | ⟨_, _ | _⟩ <;> rfl

theorem recvV3_setRegs (h : (s.setRegs conf codec tx l).waitBudget = s.waitBudget) :
    recvV3 (s.setRegs conf codec tx l) = (recvV3 s).setRegs conf codec tx l := by
  simp only [recvV3, h]
  rfl

theorem recvV4_setRegs : recvV4 (s.setRegs conf codec tx l) = (recvV4 s).setRegs conf codec tx l := by
  have henv : (s.setRegs conf codec tx l).env = s.env := rfl
  have hcnt : (s.setRegs conf codec tx l).rxTmoCnt = s.rxTmoCnt := rfl
  simp only [recvV4, State.pollFrame, henv, hcnt]
  by_cases h0 : s.rxTmoCnt = 0
  · simp only [if_pos h0]
    rfl
  · simp only [if_neg h0]
    rcases s.env.pollAnswers with _ | ⟨_ | _, rest⟩ <;> rfl

theorem recvV5_setRegs (f : Frame) (h : (s.setRegs conf codec tx l).judgeMessage f = s.judgeMessage f) :
    recvV5 f (s.setRegs conf codec tx l) = (recvV5 f s).setRegs conf codec tx l := by
  simp only [recvV5, h]
  split <;> rfl

/-- The registers RECV reads at a position are equal. -/
structure RecvReadsSame (s s' : State) : Prop where
  launch : s.running = none → s'.launchReady .recv = s.launchReady .recv
  budget : s.running = some .recv → s.rxState = .headerValid → s'.waitBudget = s.waitBudget
  judge : s.running = some .recv → s.rxState = .awaitingMessage → s.stage.rxHeld = true →
    ∀ f, s'.judgeMessage f = s.judgeMessage f

theorem recvFrame_setRegs (f : Frame) (h : RecvReadsSame s (s.setRegs conf codec tx l)) :
    recvFrame f (s.setRegs conf codec tx l) = (recvFrame f s).setRegs conf codec tx l := by
  rcases recvFrame_cases s f with ⟨hr, hx, e⟩ | ⟨hr, hx, hh, e⟩ | ⟨hun, e⟩ <;> rw [e]
  · rw [recvFrame_awaitingHeader (s := s.setRegs conf codec tx l) hr hx, recvV2_setRegs]
  · rw [recvFrame_awaitingMessage (s := s.setRegs conf codec tx l) hr hx hh, recvV5_setRegs f (h.judge hr hx hh f)]
  · exact recvFrame_unheld f hun

theorem exec_recv_setRegs (h : RecvReadsSame s (s.setRegs conf codec tx l)) :
    exec .recv (s.setRegs conf codec tx l) = mapNext (State.setRegs conf codec tx l) (exec .recv s) := by
  have hrun : (s.setRegs conf codec tx l).running = s.running := rfl
  rcases hr : s.running with _ | c
  · rw [exec_recv_of_idle hr, exec_recv_of_idle (hrun.trans hr)]
    simp only [recvV0, State.accept, State.unreadyLaunchesAfter, h.launch hr]
    rfl
  by_cases hc : c = .recv
  · subst hc
    rw [exec_recv_of_running hr, exec_recv_of_running (hrun.trans hr)]
    have hrx : (s.setRegs conf codec tx l).rxState = s.rxState := rfl
    have hstage : (s.setRegs conf codec tx l).stage = s.stage := rfl
    cases hx : s.rxState with
    | idle => simp only [recvMicroStep, hrx, hx, mapNext, recvV1_setRegs]
    | awaitingHeader => simp only [recvMicroStep, hrx, hstage, hx, mapNext, recvV2_setRegs]
    | headerValid => simp only [recvMicroStep, hrx, hx, mapNext, recvV3_setRegs (h.budget hr hx)]
    | awaitingMessage =>
      cases hh : s.stage.rxHeld with
      | true => simp [recvMicroStep, hrx, hstage, hx, hh, mapNext, recvV5_setRegs _ (h.judge hr hx hh _)]
      | false => simp [recvMicroStep, hrx, hstage, hx, hh, mapNext, recvV4_setRegs]
    | delivered | rejected => simp only [recvMicroStep, hrx, hx, mapNext]
  · have still := fun s' hr' => commandIgnoredWhileAnotherRuns s' .recv c hr' (Ne.symm hc)
    exact (still _ (hrun.trans hr)).trans (congrArg (mapNext _) (still s hr)).symm

/-- An instruction of SEND's or RECV's, a frame included. -/
def Sequencer (i : Instr) : Prop := Cmd.ofInstr i = .send ∨ Cmd.ofInstr i = .recv

theorem exec_setRegs {i : Instr} (hi : Sequencer i)
    (hs : Cmd.ofInstr i = .send → SendReadsSame s (s.setRegs conf codec tx l))
    (hr : Cmd.ofInstr i = .recv → RecvReadsSame s (s.setRegs conf codec tx l)) :
    exec i (s.setRegs conf codec tx l) = mapNext (State.setRegs conf codec tx l) (exec i s) := by
  cases i with
  | send => exact exec_send_setRegs (hs rfl)
  | recv => exact exec_recv_setRegs (hr rfl)
  | headerFrame | messageFrame => exact congrArg Host.Outcome.next (recvFrame_setRegs _ (hr rfl))
  | _ => simp [Sequencer, Cmd.ofInstr] at hi

/-- SEND, RECV and the frames write none of these registers. -/
theorem sequencer_frame {i : Instr} {t : State} (hi : Sequencer i) (h : exec i s = .next t) :
    t.conf = s.conf ∧ t.codec = s.codec ∧ t.tx = s.tx ∧ t.unwritten = s.unwritten := by
  cases exec_origin h with
  | codec c hc hne m =>
    subst hc
    rcases hi with hi | hi <;> rw [ofInstr_instr] at hi
    · exact absurd hi hne.1
    · exact absurd hi hne.2
  | send _ m => rw [m.frame]; exact ⟨rfl, rfl, rfl, rfl⟩
  | recv _ _ _ m => rw [m.frame]; exact ⟨rfl, rfl, rfl, rfl⟩

end

/-! ### The codec commands, with other values in registers they do not read -/

/-- A change of the state that acceptance and completion do not see passes through a codec command, if it passes through
what the command does. -/
theorem codecCommand_comm {f : State → State} {c : Cmd} {effect unready : State → State} {s : State}
    (hcan : (f s).canRun c = s.canRun c) (hready : (f s).launchReady c = s.launchReady c)
    (haccept : (f s).accept c = f (s.accept c)) (hcomplete : ∀ t : State, (f t).complete .ok = f (t.complete .ok))
    (he : s.launchReady c = true → effect (f (s.accept c)) = f (effect (s.accept c)))
    (hu : s.launchReady c = false → unready (f (s.accept c)) = f (unready (s.accept c))) :
    (f s).codecCommand c effect unready = f (s.codecCommand c effect unready) := by
  simp only [State.codecCommand, hcan, hready, haccept]
  cases s.canRun c with
  | false => rfl
  | true =>
    cases hl : s.launchReady c with
    | false => simp only [if_true, Bool.false_eq_true, if_false, hu hl, hcomplete]
    | true => simp only [if_true, he hl, hcomplete]

/-! ### Unread configuration (R12, R15) -/

/-- Other values in the configuration registers. -/
def State.setConf (conf : ConfRegs) (s : State) : State := { s with conf := conf }

theorem codecCommand_setConf {c : Cmd} {effect unready : State → State} {s : State} {conf : ConfRegs}
    (he : effect ((s.accept c).setConf conf) = (effect (s.accept c)).setConf conf)
    (hu : unready ((s.accept c).setConf conf) = (unready (s.accept c)).setConf conf) :
    (s.setConf conf).codecCommand c effect unready = (s.codecCommand c effect unready).setConf conf :=
  codecCommand_comm (f := State.setConf conf) rfl rfl rfl (fun _ => rfl) (fun _ => he) fun _ => hu

theorem decHdrEffect_setConf (s : State) (conf : ConfRegs) :
    decHdrEffect (s.setConf conf) = (decHdrEffect s).setConf conf := by
  have hcodec : (s.setConf conf).codec = s.codec := rfl
  have henv : (s.setConf conf).env = s.env := rfl
  simp only [decHdrEffect, hcodec, henv]
  cases decodeHeader s.env.suite s.codec.fb <;> rfl

/-- No command reads LOCAL_ADDR or LOCAL_IV, and ENC_MSG alone reads DEST_IV. -/
theorem exec_setConf (i : Instr) (s : State) (a : Addr) (v w : Iv) (hw : i = .encMsg → w = s.conf.destIv) :
    let conf := { s.conf with localAddr := a, localIv := v, destIv := w }
    exec i (s.setConf conf) = mapNext (State.setConf conf) (exec i s) := by
  intro conf
  have sequencer (hi : Sequencer i) : exec i (s.setConf conf) = mapNext (State.setConf conf) (exec i s) := by
    have hsame := exec_setRegs (s := s) (conf := conf) (codec := s.codec) (tx := s.tx) (l := s.unwritten) hi
      (fun _ => ⟨fun _ => rfl, fun _ _ => ⟨rfl, rfl, rfl⟩⟩) fun _ => ⟨fun _ => rfl, fun _ _ => rfl, fun _ _ _ _ => rfl⟩
    refine hsame.trans (mapNext_congr fun t ht => ?_)
    obtain ⟨-, hcodec, htx, hun⟩ := sequencer_frame hi ht
    rw [← hcodec, ← htx, ← hun]
    rfl
  cases i with
  | encHdr => exact congrArg Host.Outcome.next (codecCommand_setConf rfl rfl)
  | decHdr => exact congrArg Host.Outcome.next (codecCommand_setConf (decHdrEffect_setConf _ conf) rfl)
  | encMsg =>
    obtain rfl : w = s.conf.destIv := hw rfl
    exact congrArg Host.Outcome.next (codecCommand_setConf rfl rfl)
  | decMsg => exact congrArg Host.Outcome.next (codecCommand_setConf rfl rfl)
  | send => exact sequencer (.inl rfl)
  | recv | headerFrame | messageFrame => exact sequencer (.inr rfl)

/-! ### Unwritten registers (R163) -/

section
variable {r : Reg} {v : BitVec 256} (s : State)

/-! A write of one register leaves the operands that other registers hold. -/

theorem putReg_corr (h : r ≠ .fCorr) : (s.putReg r v).codec.corr = s.codec.corr := by cases r <;> simp_all [State.putReg]
theorem putReg_type (h : r ≠ .fType) : (s.putReg r v).codec.type = s.codec.type := by cases r <;> simp_all [State.putReg]
theorem putReg_len (h : r ≠ .fLen) : (s.putReg r v).codec.len = s.codec.len := by cases r <;> simp_all [State.putReg]
theorem putReg_iv (h : r ≠ .fIv) : (s.putReg r v).codec.iv = s.codec.iv := by cases r <;> simp_all [State.putReg]
theorem putReg_fb (h : r ≠ .fb) : (s.putReg r v).codec.fb = s.codec.fb := by cases r <;> simp_all [State.putReg]
theorem putReg_pb (h : r ≠ .pb) : (s.putReg r v).codec.pb = s.codec.pb := by cases r <;> simp_all [State.putReg]
theorem putReg_destAddr (h : r ≠ .destAddr) : (s.putReg r v).conf.destAddr = s.conf.destAddr := by
  cases r <;> simp_all [State.putReg]
theorem putReg_localKey (h : r ≠ .localKey) : (s.putReg r v).conf.localKey = s.conf.localKey := by
  cases r <;> simp_all [State.putReg]
theorem putReg_destKey (h : r ≠ .destKey) : (s.putReg r v).conf.destKey = s.conf.destKey := by
  cases r <;> simp_all [State.putReg]
theorem putReg_destIv (h : r ≠ .destIv) : (s.putReg r v).conf.destIv = s.conf.destIv := by
  cases r <;> simp_all [State.putReg]
theorem putReg_rxTimeout (h : r ≠ .rxTimeout) : (s.putReg r v).conf.rxTimeout = s.conf.rxTimeout := by
  cases r <;> simp_all [State.putReg]
theorem putReg_tx (h : r ≠ .txPayload ∧ r ≠ .txType ∧ r ≠ .txLen) : (s.putReg r v).tx = s.tx := by
  cases r <;> simp_all [State.putReg]

theorem putReg_putReg_same (w : BitVec 256) : (s.putReg r v).putReg r w = s.putReg r w := by cases r <;> rfl

theorem putReg_comm {q : Reg} (h : r ≠ q) (w : BitVec 256) : (s.putReg r v).putReg q w = (s.putReg q w).putReg r v := by
  cases r <;> cases q <;> simp_all [State.putReg]

theorem putReg_markWritten (rs : List Reg) : (s.putReg r v).markWritten rs = (s.markWritten rs).putReg r v := by
  cases r <;> rfl

/-- Other codec flags. -/
def State.setFlags (fl : CodecFlags) (s : State) : State := { s with flags := fl }

theorem putReg_setFlags (fl : CodecFlags) : (s.putReg r v).setFlags fl = (s.setFlags fl).putReg r v := by
  cases r <;> rfl

end

/-- Another value in the register, if nothing has written it. -/
def State.putUnwritten (r : Reg) (v : BitVec 256) (s : State) : State := if r ∈ s.unwritten then s.putReg r v else s

section
variable {r : Reg} {v : BitVec 256} {s : State}

theorem putUnwritten_of_mem (h : r ∈ s.unwritten) : s.putUnwritten r v = s.putReg r v := if_pos h

theorem putUnwritten_of_not_mem (h : r ∉ s.unwritten) : s.putUnwritten r v = s := if_neg h

@[simp] theorem putUnwritten_running : (s.putUnwritten r v).running = s.running := by
  unfold State.putUnwritten; split <;> simp

@[simp] theorem putUnwritten_unwritten : (s.putUnwritten r v).unwritten = s.unwritten := by
  unfold State.putUnwritten; split <;> simp

/-- What passes through a write of the register, and leaves the record of unwritten registers, passes through this. -/
theorem putUnwritten_comm {g : State → State} (hu : (g s).unwritten = s.unwritten)
    (hg : g (s.putReg r v) = (g s).putReg r v) : g (s.putUnwritten r v) = (g s).putUnwritten r v := by
  by_cases hr : r ∈ s.unwritten
  · rw [putUnwritten_of_mem hr, putUnwritten_of_mem (hu ▸ hr), hg]
  · rw [putUnwritten_of_not_mem hr, putUnwritten_of_not_mem (hu ▸ hr)]

theorem putUnwritten_accept (c : Cmd) : (s.putUnwritten r v).accept c = (s.accept c).putUnwritten r v :=
  putUnwritten_comm rfl (putReg_accept s r v c)

theorem putUnwritten_complete (o : Result) : (s.putUnwritten r v).complete o = (s.complete o).putUnwritten r v :=
  putUnwritten_comm rfl (putReg_complete s r v o)

theorem putUnwritten_setFlags (fl : CodecFlags) :
    (s.putUnwritten r v).setFlags fl = (s.setFlags fl).putUnwritten r v :=
  putUnwritten_comm (g := State.setFlags fl) rfl (putReg_setFlags s fl)

/-- A written register keeps what is written: the value put into it before is lost, one put into another register is not. -/
theorem putUnwritten_writeReg (q : Reg) (w : BitVec 256) :
    (s.putUnwritten r v).writeReg q w = (s.writeReg q w).putUnwritten r v := by
  have hmem : r ∈ (s.writeReg q w).unwritten ↔ r ∈ s.unwritten ∧ r ≠ q := by simp [State.writeReg]
  by_cases hr : r ∈ s.unwritten
  · rw [putUnwritten_of_mem hr]
    by_cases hq : r = q
    · subst hq
      rw [putUnwritten_of_not_mem (by simp [hmem]), State.writeReg, putReg_putReg_same, State.writeReg]
    · rw [putUnwritten_of_mem (hmem.2 ⟨hr, hq⟩), State.writeReg, putReg_comm s hq, putReg_markWritten, State.writeReg]
  · rw [putUnwritten_of_not_mem hr, putUnwritten_of_not_mem (by simp [hmem, hr])]

/-! ### The effects of the codec commands as register writes -/

theorem encHdrEffect_eq_writeReg (s : State) : encHdrEffect s =
    s.writeReg .fb (encodeHeader s.env.suite s.codec.corr s.codec.type s.codec.len s.codec.iv) := rfl

theorem encMsgEffect_eq_writeReg (s : State) : encMsgEffect s =
    s.writeReg .fb (encodeMessage s.env.suite s.codec.pb s.conf.destKey s.conf.destIv) := rfl

theorem decMsgEffect_eq_writeReg (s : State) :
    let d := decodeMessage s.env.suite s.codec.fb s.conf.localKey s.codec.iv
    decMsgEffect s = (s.setFlags (s.flags.setMessage d.2)).writeReg .pb (d.1.setWidth 256) := by
  simp [decMsgEffect, State.setFlags, State.writeReg, State.putReg, State.markWritten]

theorem decHdrEffect_eq_writeReg {h : HeaderFields} {k : Bool}
    (hd : decodeHeader s.env.suite s.codec.fb = some (h, k)) :
    decHdrEffect s = ((((s.setFlags (s.flags.setHeader true k)).writeReg .fIv (h.iv.setWidth 256)).writeReg
      .fLen (h.len.setWidth 256)).writeReg .fType (h.type.setWidth 256)).writeReg .fCorr (h.corr.setWidth 256) := by
  simp [decHdrEffect, hd, State.setFlags, State.writeReg, State.putReg, State.markWritten, List.filter_filter]

/-! ### Passing through each instruction -/

theorem codecCommand_putUnwritten {c : Cmd} {effect unready : State → State} (hl : s.launchReady c = true)
    (he : effect ((s.accept c).putUnwritten r v) = (effect (s.accept c)).putUnwritten r v) :
    (s.putUnwritten r v).codecCommand c effect unready = (s.codecCommand c effect unready).putUnwritten r v := by
  refine codecCommand_comm (f := State.putUnwritten r v) ?_ ?_ (putUnwritten_accept c) (fun _ => putUnwritten_complete .ok)
    (fun _ => he) fun hnot => ?_
  · simp only [State.canRun, putUnwritten_running]
  · simp only [State.launchReady, putUnwritten_unwritten]
  · simp [hl] at hnot

theorem putReg_eq_setRegs {t : State} (hconf : t.conf = s.conf) (hcodec : t.codec = s.codec) (htx : t.tx = s.tx)
    (hun : t.unwritten = s.unwritten) : t.putReg r v =
      t.setRegs (s.putReg r v).conf (s.putReg r v).codec (s.putReg r v).tx s.unwritten := by
  cases t
  subst hconf hcodec htx hun
  cases r <;> rfl

/-! An unwritten register is none of a ready command's row, so the value it holds passes through the command. -/

section
variable (hr : r ∈ s.unwritten)
include hr

theorem ne_of_launchReady {c : Cmd} (hl : s.launchReady c = true) : ∀ q ∈ c.launchRegs, r ≠ q := by
  rintro q hq rfl
  have hrow : ∀ q ∈ c.launchRegs, q ∉ s.unwritten := by simpa [State.launchReady] using hl
  exact hrow r hq hr

theorem encHdrEffect_putUnwritten (hl : s.launchReady .encHdr = true) :
    encHdrEffect (s.putUnwritten r v) = (encHdrEffect s).putUnwritten r v := by
  obtain ⟨hc, ht, hn, hv⟩ : r ≠ .fCorr ∧ r ≠ .fType ∧ r ≠ .fLen ∧ r ≠ .fIv := by
    simpa [Cmd.launchRegs] using ne_of_launchReady hr hl
  rw [encHdrEffect_eq_writeReg s, ← putUnwritten_writeReg, putUnwritten_of_mem hr, encHdrEffect_eq_writeReg, putReg_env,
    putReg_corr s hc, putReg_type s ht, putReg_len s hn, putReg_iv s hv]

theorem encMsgEffect_putUnwritten (hl : s.launchReady .encMsg = true) :
    encMsgEffect (s.putUnwritten r v) = (encMsgEffect s).putUnwritten r v := by
  obtain ⟨hp, hk, hv⟩ : r ≠ .pb ∧ r ≠ .destKey ∧ r ≠ .destIv := by
    simpa [Cmd.launchRegs] using ne_of_launchReady hr hl
  rw [encMsgEffect_eq_writeReg s, ← putUnwritten_writeReg, putUnwritten_of_mem hr, encMsgEffect_eq_writeReg, putReg_env,
    putReg_pb s hp, putReg_destKey s hk, putReg_destIv s hv]

theorem decMsgEffect_putUnwritten (hl : s.launchReady .decMsg = true) :
    decMsgEffect (s.putUnwritten r v) = (decMsgEffect s).putUnwritten r v := by
  obtain ⟨hf, hk, hv⟩ : r ≠ .fb ∧ r ≠ .localKey ∧ r ≠ .fIv := by
    simpa [Cmd.launchRegs] using ne_of_launchReady hr hl
  have hput := decMsgEffect_eq_writeReg (s.putReg r v)
  rw [putReg_env, putReg_flags, putReg_fb s hf, putReg_localKey s hk, putReg_iv s hv] at hput
  rw [decMsgEffect_eq_writeReg s, ← putUnwritten_writeReg, ← putUnwritten_setFlags, putUnwritten_of_mem hr, hput]

theorem decHdrEffect_putUnwritten (hl : s.launchReady .decHdr = true) :
    decHdrEffect (s.putUnwritten r v) = (decHdrEffect s).putUnwritten r v := by
  have hf : r ≠ .fb := by simpa [Cmd.launchRegs] using ne_of_launchReady hr hl
  have hd : decodeHeader (s.putReg r v).env.suite (s.putReg r v).codec.fb = decodeHeader s.env.suite s.codec.fb := by
    rw [putReg_env, putReg_fb s hf]
  rcases h : decodeHeader s.env.suite s.codec.fb with _ | ⟨fields, k⟩
  · rw [putUnwritten_of_mem hr, decHdrEffect, hd, h, putReg_flags, ← putUnwritten_of_mem hr, decHdrEffect, h]
    exact putUnwritten_setFlags _
  · rw [decHdrEffect_eq_writeReg h]
    simp only [← putUnwritten_writeReg, ← putUnwritten_setFlags]
    rw [putUnwritten_of_mem hr, decHdrEffect_eq_writeReg (hd.trans h), putReg_flags]

theorem sendReadsSame_putReg (hl : s.launchReady .send = true) : SendReadsSame s (s.putReg r v) := by
  have hrow : r ≠ .txPayload ∧ r ≠ .txType ∧ r ≠ .txLen ∧ r ≠ .destAddr ∧ r ≠ .destKey := by
    simpa [Cmd.launchRegs] using ne_of_launchReady hr hl
  obtain ⟨hp, ht, hn, ha, hk⟩ := hrow
  have hl' : (s.putReg r v).launchReady .send = true := by rw [putReg_launchReady, hl]
  refine ⟨fun _ => putReg_launchReady s r v .send, fun _ _ => ⟨?_, ?_, ?_⟩⟩
  · rw [sendAddress_ready _ hl', sendAddress_ready _ hl, putReg_destAddr s ha]
  · rw [headerToSend_ready _ hl', headerToSend_ready _ hl, putReg_env, putReg_sess, putReg_tx s ⟨hp, ht, hn⟩]
  · rw [messageToSend_ready _ hl', messageToSend_ready _ hl, putReg_env, putReg_sess, putReg_tx s ⟨hp, ht, hn⟩,
      putReg_destKey s hk]

theorem recvReadsSame_putReg (hl : s.launchReady .recv = true) : RecvReadsSame s (s.putReg r v) := by
  obtain ⟨hk, ht⟩ : r ≠ .localKey ∧ r ≠ .rxTimeout := by simpa [Cmd.launchRegs] using ne_of_launchReady hr hl
  have hl' : (s.putReg r v).launchReady .recv = true := by rw [putReg_launchReady, hl]
  refine ⟨fun _ => putReg_launchReady s r v .recv, fun _ _ => ?_, fun _ _ _ f => ?_⟩
  · rw [waitBudget_ready _ hl', waitBudget_ready _ hl, putReg_rxTimeout s ht]
  · rw [judgeMessage_ready _ f hl', judgeMessage_ready _ f hl, putReg_env, putReg_sess, putReg_stage, putReg_localKey s hk]

theorem exec_putUnwritten {i : Instr} (hl : s.launchReady (Cmd.ofInstr i) = true) :
    exec i (s.putUnwritten r v) = mapNext (State.putUnwritten r v) (exec i s) := by
  have sequencer (hi : Sequencer i) : exec i (s.putUnwritten r v) = mapNext (State.putUnwritten r v) (exec i s) := by
    have hput := putReg_eq_setRegs (r := r) (v := v) (s := s) (t := s) rfl rfl rfl rfl
    rw [putUnwritten_of_mem hr, hput, exec_setRegs hi
      (fun hs => hput ▸ sendReadsSame_putReg hr (hs ▸ hl)) fun hs => hput ▸ recvReadsSame_putReg hr (hs ▸ hl)]
    refine mapNext_congr fun t ht => ?_
    obtain ⟨hconf, hcodec, htx, hun⟩ := sequencer_frame hi ht
    rw [putUnwritten_of_mem (hun ▸ hr), putReg_eq_setRegs hconf hcodec htx hun]
  cases i with
  | encHdr =>
    exact congrArg Host.Outcome.next (codecCommand_putUnwritten hl
      (encHdrEffect_putUnwritten (s := s.accept .encHdr) hr hl))
  | decHdr =>
    exact congrArg Host.Outcome.next (codecCommand_putUnwritten hl
      (decHdrEffect_putUnwritten (s := s.accept .decHdr) hr hl))
  | encMsg =>
    exact congrArg Host.Outcome.next (codecCommand_putUnwritten hl
      (encMsgEffect_putUnwritten (s := s.accept .encMsg) hr hl))
  | decMsg =>
    exact congrArg Host.Outcome.next (codecCommand_putUnwritten hl
      (decMsgEffect_putUnwritten (s := s.accept .decMsg) hr hl))
  | send => exact sequencer (.inl rfl)
  | recv | headerFrame | messageFrame => exact sequencer (.inr rfl)

end

end

/-- Settles O57: other configuration passes through every command (`exec_setConf`), and another value in an unwritten
register through a ready one (`exec_putUnwritten`). -/
theorem unreadConfigurationHasNoInfluence : Obligations.UnreadConfigurationHasNoInfluence := by
  refine ⟨fun i s a v w hw => ?_, fun i s r v hl hr => ?_⟩
  · refine (exec_setConf i s a v w hw).trans ((mapNext_congr
      (g := fun t => { t with conf := { t.conf with localAddr := a, localIv := v, destIv := w } }) fun t ht => ?_).trans rfl)
    obtain ⟨hconf, -⟩ := noCommandWritesConfiguration i s t ht
    rw [hconf]
    rfl
  · rw [← putUnwritten_of_mem hr]
    exact (exec_putUnwritten hr hl).trans rfl

end Sys2Proof.Machine
end

section
/-! PROOFS. The record of unwritten registers and of the launches on one (R162, R163; assumption log 2). -/

namespace Sys2Proof.Machine

open Sys2Proof.Safety

section
variable {s t : State}

/-! ### What a host write and a ready launch take out of the record -/

theorem mem_markWritten (rs : List Reg) (q : Reg) : q ∈ (s.markWritten rs).unwritten ↔ q ∈ s.unwritten ∧ q ∉ rs := by
  simp

theorem mem_writeReg (r q : Reg) (v : BitVec 256) : q ∈ (s.writeReg r v).unwritten ↔ q ∈ s.unwritten ∧ q ≠ r := by
  simp [State.writeReg]

/-- A read-write register is not CMD. -/
theorem number_ne_cmd {r : Reg} (hw : r.writable = true) : r.number ≠ Reg.cmd.number :=
  number_injective.ne fun e => absurd (e ▸ hw) (by decide)

theorem unwritten_of_ready {c : Cmd} {effect unready : State → State} (rs : List Reg) (hr : s.running = none)
    (hl : s.launchReady c = true) (he : (effect (s.accept c)).unwritten = (s.markWritten rs).unwritten)
    (h : .next (s.codecCommand c effect unready) = (.next t : Out)) (q : Reg) :
    q ∈ t.unwritten ↔ q ∈ s.unwritten ∧ q ∉ rs := by
  rw [codecCommand_ready s c effect unready hr hl] at h
  cases h
  rw [complete_unwritten, he, mem_markWritten]

/-- Each codec command's written registers, after a ready launch. -/
theorem unwritten_of_codec (hr : s.running = none) :
    (launchReady .encHdr s = true → exec .encHdr s = .next t → ∀ q, q ∈ t.unwritten ↔ q ∈ s.unwritten ∧ q ≠ .fb) ∧
    (launchReady .encMsg s = true → exec .encMsg s = .next t → ∀ q, q ∈ t.unwritten ↔ q ∈ s.unwritten ∧ q ≠ .fb) ∧
    (launchReady .decMsg s = true → exec .decMsg s = .next t → ∀ q, q ∈ t.unwritten ↔ q ∈ s.unwritten ∧ q ≠ .pb) := by
  refine ⟨fun hl h q => ?_, fun hl h q => ?_, fun hl h q => ?_⟩
  · simpa using unwritten_of_ready [.fb] hr hl rfl h q
  · simpa using unwritten_of_ready [.fb] hr hl rfl h q
  · simpa using unwritten_of_ready [.pb] hr hl rfl h q

theorem unwritten_of_decHdr (hr : s.running = none) (hl : launchReady .decHdr s = true) (h : exec .decHdr s = .next t) :
    (frameMarker s.codec.fb ≠ marker → t.unwritten = s.unwritten) ∧
    (frameMarker s.codec.fb = marker →
      ∀ q, q ∈ t.unwritten ↔ q ∈ s.unwritten ∧ q ≠ .fCorr ∧ q ≠ .fType ∧ q ≠ .fLen ∧ q ≠ .fIv) := by
  constructor
  · intro hm
    obtain rfl := Host.Outcome.next.inj h
    rw [codecCommand_ready s .decHdr _ _ hr hl, decHdrEffect_of_no_marker (s := s.accept .decHdr) hm]
    rfl
  · intro hm q
    have he : (decHdrEffect (s.accept .decHdr)).unwritten = (s.markWritten [.fCorr, .fType, .fLen, .fIv]).unwritten := by
      rw [decHdrEffect_of_marker (s := s.accept .decHdr) hm]
      rfl
    simpa using unwritten_of_ready _ hr hl he h q

/-! ### Unready launches -/

theorem unreadyLaunchesAfter_unready {c : Cmd} (h : s.launchReady c = false) :
    s.unreadyLaunchesAfter c = s.unreadyLaunches ++ [c] := by
  simp [State.unreadyLaunchesAfter, h]

/-- The result of a codec command launched unready while none runs, which writes flags and codec registers alone. -/
theorem codecCommand_unready_result {c : Cmd} (effect : State → State) {unready : State → State} {fl : CodecFlags}
    {cr : CodecRegs} {l : List Reg} (h : s.running = none) (hl : s.launchReady c = false)
    (he : unready (s.accept c) = { s.accept c with flags := fl, codec := cr, unwritten := l }) :
    s.codecCommand c effect unready = { s with
      outcome := .ok, flags := fl, codec := cr, unwritten := l, unreadyLaunches := s.unreadyLaunches ++ [c] } := by
  rw [codecCommand_unready s c effect unready h hl, he]
  simp only [State.complete, State.accept, unreadyLaunchesAfter_unready hl, h]

/-- An unready DEC_HDR finds some marker and some checksum, and writes the field registers with the marker alone. -/
theorem decHdrUnready_eq (s : State) : ∃ (m k : Bool) (c : CorrId) (t n : Byte) (v : Iv),
    decHdrUnready s = State.markUndefined [.fCorr, .fType, .fLen, .fIv] { s with
      flags := { s.flags with markerOk := m, cksumOk := m && k, hdrValid := m && k }
      codec := if m then { s.codec with corr := c, type := t, len := n, iv := v } else s.codec } := by
  refine ⟨(s.unreadyResult 0x00).getLsbD 12, (s.unreadyResult 0x00).getLsbD 13,
    (s.unreadyResult 0x10).setWidth 32, (s.unreadyResult 0x11).setWidth 8, (s.unreadyResult 0x12).setWidth 8,
    (s.unreadyResult 0x13).setWidth 128, ?_⟩
  simp only [decHdrUnready, CodecFlags.setHeader, Bool.and_self_left]

theorem exec_send_unready (hr : s.running = none) (hl : s.launchReady .send = false) :
    exec .send s = .next { s with
      running := some .send, outcome := .none, txState := .ready
      unreadyLaunches := s.unreadyLaunches ++ [.send] } := by
  rw [exec_send_of_idle hr, sendT0, State.accept, unreadyLaunchesAfter_unready hl]

theorem exec_recv_unready (hr : s.running = none) (hl : s.launchReady .recv = false) :
    exec .recv s = .next { s with
      running := some .recv, outcome := .none, rxState := .idle, rx := RxRegs.zero, rxTmoCnt := 0
      unreadyLaunches := s.unreadyLaunches ++ [.recv] } := by
  rw [exec_recv_of_idle hr, recvV0, State.accept, unreadyLaunchesAfter_unready hl]

/-! ### A running command that was launched unready -/

/-- A transmit goes on or ends as the answer says, whatever the frame and the address. -/
theorem sendTransmit_of_cons {a : SendAnswer} {rest : List SendAnswer} (f : Frame) (sent : TxState)
    (ha : s.env.sendAnswers = a :: rest) :
    let e := { s.env with sendAnswers := rest, sent := s.env.sent ++ [⟨s.sendAddress, f, a⟩] }
    (a = .ok → sendTransmit f sent s = { s with txState := sent, stage := { s.stage with txf := f }, env := e }) ∧
    (a = .fail → sendTransmit f sent s = { s with
      running := none
      outcome := .transportFailure
      sess := Session.closed
      stage := { s.stage with txf := f, rxhType := 0, rxhLen := 0 }
      env := e }) := by
  rcases sendTransmit_cases s f sent with ⟨hnil, -⟩ | ⟨a', rest', hcons, answer⟩
  · simp [ha] at hnil
  · obtain ⟨rfl, rfl⟩ : a = a' ∧ rest = rest' := by simpa [ha] using hcons
    rcases answer with ⟨rfl, hok⟩ | ⟨rfl, hfail⟩
    · exact ⟨fun _ => hok, nofun⟩
    · exact ⟨nofun, fun _ => hfail⟩

/-- A position at which the running command uses no register of its row. -/
theorem exec_of_unused {i : Instr} (h : s.running = some .send ∨ s.running = some .recv)
    (hsend : s.running = some .send → s.txState ≠ .headerSent ∧ (s.txState = .ready → s.sess.valid = false))
    (hrecv : s.running = some .recv → s.rxState ≠ .headerValid ∧ (s.rxState = .awaitingMessage → s.stage.rxHeld = false)) :
    exec i s = mapNext (fun t => { t with unwritten := s.unwritten }) (exec i { s with unwritten := [] }) := by
  have busy : s.running ≠ none := by rcases h with h | h <;> simp [h]
  have sequencer (hi : Sequencer i) :
      exec i s = mapNext (fun t => { t with unwritten := s.unwritten }) (exec i { s with unwritten := [] }) := by
    have sendSame : SendReadsSame { s with unwritten := [] } s := by
      refine ⟨fun hr => absurd hr busy, fun hr hpos => ?_⟩
      obtain ⟨hheader, hready⟩ := hsend hr
      rcases hpos with ⟨ht, hv⟩ | ht
      · simp [hready ht] at hv
      · exact absurd ht hheader
    have recvSame : RecvReadsSame { s with unwritten := [] } s := by
      refine ⟨fun hr => absurd hr busy, fun hr hx => absurd hx (hrecv hr).1, fun hr hx hh => ?_⟩
      simp [(hrecv hr).2 hx] at hh
    have same := exec_setRegs (s := { s with unwritten := [] }) (conf := s.conf) (codec := s.codec) (tx := s.tx)
      (l := s.unwritten) hi (fun _ => sendSame) fun _ => recvSame
    refine Eq.trans same (mapNext_congr fun t ht => ?_)
    obtain ⟨hconf, hcodec, htx, -⟩ := sequencer_frame hi ht
    rw [State.setRegs, ← hconf, ← hcodec, ← htx]
  have codec (c : Cmd) (hc : c ≠ .send ∧ c ≠ .recv) :
      exec c.instr s = mapNext (fun t => { t with unwritten := s.unwritten }) (exec c.instr { s with unwritten := [] }) := by
    obtain ⟨d, hr, hd⟩ : ∃ d, s.running = some d ∧ c ≠ d := by
      rcases h with h | h
      · exact ⟨_, h, hc.1⟩
      · exact ⟨_, h, hc.2⟩
    rw [commandIgnoredWhileAnotherRuns s c d hr hd, commandIgnoredWhileAnotherRuns { s with unwritten := [] } c d hr hd]
    rfl
  cases i with
  | encHdr => exact codec .encHdr (by decide)
  | decHdr => exact codec .decHdr (by decide)
  | encMsg => exact codec .encMsg (by decide)
  | decMsg => exact codec .decMsg (by decide)
  | send => exact sequencer (.inl rfl)
  | recv | headerFrame | messageFrame => exact sequencer (.inr rfl)

/-! ### The record of unready launches over a step -/

/-- A micro-step of a running command records nothing. -/
theorem unreadyLaunches_of_running {i : Instr} (hseq : sequencerOk s = true) (hr : s.running ≠ none)
    (h : exec i s = .next t) : t.unreadyLaunches = s.unreadyLaunches := by
  cases exec_origin h with
  | codec c _ hc m =>
    cases m with
    | still => rfl
    | done hrun => exact absurd (idle_of_canRun hseq hc hrun) hr
  | send _ m =>
    cases m with
    | accept hidle => exact absurd hidle hr
    | _ => rfl
  | recv _ _ _ m =>
    cases m with
    | accept hidle => exact absurd hidle hr
    | _ => rfl

theorem unreadyLaunches_of_microStep (hseq : sequencerOk s = true) (h : microStep s = .next t) :
    t.unreadyLaunches = s.unreadyLaunches := by
  cases hr : s.running with
  | none =>
    rw [microStep_of_idle hr] at h
    cases h
    rfl
  | some c =>
    rw [microStep_eq_exec hr] at h
    exact unreadyLaunches_of_running hseq (by simp [hr]) h

/-- A step that is no unready launch keeps the record, or empties it on reset. -/
theorem unreadyLaunches_of_no_unreadyLaunch (hseq : sequencerOk s = true) (hu : unreadyLaunch s = false)
    (h : step s = .next t) : t.unreadyLaunches = s.unreadyLaunches ∨
      (s.env.inputs.head? = some .reset ∧ t.unreadyLaunches = []) := by
  rcases hi : s.env.inputs with _ | ⟨n | ⟨n, v⟩ | _ | _, rest⟩
  · exact .inl (unreadyLaunches_of_microStep hseq (step_of_nil s hi ▸ h))
  · rw [step_of_read s hi] at h
    cases h
    exact .inl rfl
  · left
    by_cases hn : n = Reg.cmd.number
    · subst hn
      rcases step_of_command s hi with ⟨-, hs⟩ | ⟨-, -, hs⟩ | ⟨hb, i, hd, hs⟩
      · cases hs.symm.trans h
        rfl
      · cases hs.symm.trans h
        rfl
      · have hr : s.running = none := by simpa [State.busy] using hb
        have hl : s.launchReady (Cmd.ofInstr i) = true := by
          by_contra hl
          have := (unreadyLaunch_iff s).2 ⟨hr, v, rest, i, hi, hd, eq_false_of_ne_true hl⟩
          simp [hu] at this
        obtain ⟨t', he, ht'⟩ := exec_launch (Cmd.ofInstr i) s.popInput hr
        rw [instr_ofInstr hd] at he
        cases he.symm.trans (hs.symm.trans h)
        exact ht'.trans (unreadyLaunchesAfter_ready s.popInput _ hl)
    · rw [step_of_write s hi hn] at h
      obtain ⟨_, _, _, _, e⟩ := hostWrite_frame s.popInput n v
      rw [e] at h
      cases h
      rfl
  · rw [step_of_reset s hi] at h
    cases h
    exact .inr ⟨rfl, rfl⟩
  · exact .inl (unreadyLaunches_of_microStep (s := s.popInput) hseq (step_of_pass s hi ▸ h))

/-- An unready launch is recorded. -/
theorem unreadyLaunches_of_unreadyLaunch (hu : unreadyLaunch s = true) (h : step s = .next t) :
    ∃ (v : BitVec 256) (rest : List Input) (c : Cmd), s.running = none ∧
      s.env.inputs = .write Reg.cmd.number v :: rest ∧ decode .command [v.setWidth 8] = .ok (c.instr, []) ∧
      launchReady c.instr s = false ∧ t.unreadyLaunches = s.unreadyLaunches ++ [c] := by
  obtain ⟨hr, v, rest, i, hi, hd, hl⟩ := (unreadyLaunch_iff s).1 hu
  have hidle : s.busy = false := by simp [State.busy, hr]
  have hinstr := instr_ofInstr hd
  refine ⟨v, rest, Cmd.ofInstr i, hr, hi, ?_, ?_, ?_⟩
  · rw [hinstr]
    exact decode_command_of_some hd []
  · rw [hinstr]
    exact hl
  rcases step_of_command s hi with ⟨hb, -⟩ | ⟨-, hnone, -⟩ | ⟨-, i', hd', hs⟩
  · simp [hidle] at hb
  · simp [hd] at hnone
  · obtain rfl : i = i' := by simpa [hd] using hd'
    obtain ⟨t', he, ht'⟩ := exec_launch (Cmd.ofInstr i) s.popInput hr
    rw [hinstr] at he
    cases he.symm.trans (hs.symm.trans h)
    exact ht'.trans (unreadyLaunchesAfter_unready (s := s.popInput) hl)

end

/-- Settles O19: a ready launch writes its command's registers and an unready one writes some value there, the sequencers
use the list at three positions only, and the record grows at an accepted launch alone, so over a step it is that of
`exec_launch` or kept. -/
theorem unwrittenRegistersAreTracked : Obligations.UnwrittenRegistersAreTracked := by
  refine ⟨rfl, ?reset, ?hostWrite, ?ready, ?sequencer, ?row, ?unready, ?unreadySend, ?unreadyWait, ?unreadyJudge,
    ?noRegister, ?record⟩
  case reset =>
    intro s rest h
    exact ⟨_, step_of_reset_eq_afterReset h, rfl⟩
  case hostWrite =>
    intro s r v rest h hr hw
    have hidle : s.popInput.busy = false := by simp [State.busy, hr]
    refine ⟨_, step_of_write s h (number_ne_cmd hw), fun q => ?_⟩
    rw [hostWrite_number _ v hidle hw, mem_writeReg, popInput_unwritten]
  case ready =>
    intro s t hr
    obtain ⟨hencHdr, hencMsg, hdecMsg⟩ := unwritten_of_codec hr
    exact ⟨hencHdr, hencMsg, hdecMsg, fun hl h => (unwritten_of_decHdr hr hl h).1,
      fun hl h => (unwritten_of_decHdr hr hl h).2⟩
  case sequencer =>
    intro i s t hencHdr hdecHdr hencMsg hdecMsg h
    have hi : Sequencer i := by
      cases i with
      | send => exact .inl rfl
      | recv | headerFrame | messageFrame => exact .inr rfl
      | _ => contradiction
    obtain ⟨-, -, -, hun⟩ := sequencer_frame hi h
    exact hun
  case row =>
    intro i s row
    rw [launchReady_iff]
    cases i <;> rfl
  case unready =>
    intro s hr
    refine ⟨fun hl => ?_, fun hl => ?_, fun hl => ?_, fun hl => ?_, exec_send_unready hr, exec_recv_unready hr⟩
    · refine ⟨_, _, fun q => ?_, congrArg Host.Outcome.next (codecCommand_unready_result encHdrEffect hr hl rfl)⟩
      exact Iff.trans (mem_markUndefined s [.fb] q) (by simp)
    · obtain ⟨m, k, c, t, n, v, e⟩ := decHdrUnready_eq (s.accept .decHdr)
      refine ⟨m, k, c, t, n, v, _, fun q => ?_,
        congrArg Host.Outcome.next (codecCommand_unready_result decHdrEffect hr hl e)⟩
      exact Iff.trans (mem_markUndefined s [.fCorr, .fType, .fLen, .fIv] q) (by simp)
    · refine ⟨_, _, fun q => ?_, congrArg Host.Outcome.next (codecCommand_unready_result encMsgEffect hr hl rfl)⟩
      exact Iff.trans (mem_markUndefined s [.fb] q) (by simp)
    · refine ⟨_, _, _, fun q => ?_, congrArg Host.Outcome.next (codecCommand_unready_result decMsgEffect hr hl rfl)⟩
      exact Iff.trans (mem_markUndefined s [.pb] q) (by simp)
  case unreadySend =>
    intro s a rest hr _ hpos ha
    rcases hpos with ⟨ht, hv⟩ | ht
    · refine ⟨s.sendAddress, s.headerToSend, ?_⟩
      rw [exec_send_ready_session hr ht hv, if_pos ht]
      obtain ⟨hok, hfail⟩ := sendTransmit_of_cons s.headerToSend .headerSent ha
      exact ⟨fun h => congrArg _ (hok h), fun h => congrArg _ (hfail h)⟩
    · refine ⟨s.sendAddress, s.messageToSend, ?_⟩
      rw [exec_send_headerSent hr ht, if_neg (by simp [ht])]
      obtain ⟨hok, hfail⟩ := sendTransmit_of_cons s.messageToSend .messageSent ha
      exact ⟨fun h => congrArg _ (hok h), fun h => congrArg _ (hfail h)⟩
  case unreadyWait =>
    intro s hr _ hx
    exact ⟨s.waitBudget, exec_recv_headerValid hr hx⟩
  case unreadyJudge =>
    intro s x y hr _ hx hh
    refine ⟨(s.judgeMessage (messageBits x y)).2, (s.judgeMessage (messageBits x y)).1, ?_⟩
    rw [exec_messageFrame, recvFrame_awaitingMessage hr hx hh]
    rcases recvV5_cases (s := s) (messageBits x y) with ⟨hd, e⟩ | ⟨hd, e⟩ <;> rw [e, hd] <;> rfl
  case noRegister =>
    intro i s h hsend hrecv
    exact (exec_of_unused h hsend hrecv).trans rfl
  case record =>
    intro s t h hstep
    obtain ⟨hseq, -⟩ := (inv_iff s).1 h
    exact ⟨fun hu => unreadyLaunches_of_no_unreadyLaunch hseq hu hstep, fun hu => unreadyLaunches_of_unreadyLaunch hu hstep⟩

end Sys2Proof.Machine
end
